-- ==== Sys2Proof/Word.lean ====
section
/-! DEFINITION. The words of the machine: general registers, special registers and addresses are 32 bits
(00_scope.md R7, XLEN), the bus moves bytes, half-words and words (20_memory.md R62), register fields are
5 bits (10_state.md R32). Bit 0 is the least significant bit throughout (00_scope.md R9). -/

namespace Sys2Proof

/-- A 32-bit word. -/
abbrev Word := BitVec 32

/-- A 16-bit half-word. -/
abbrev Half := BitVec 16

/-- An 8-bit byte. -/
abbrev Byte := BitVec 8

/-- The number of a general register: a 5-bit field of an instruction. -/
abbrev RegIdx := BitVec 5

end Sys2Proof
end

