-- ==== Sys2Proof/Config.lean ====
section
/-! DEFINITION. What an implementation fixes: every parameter of 00_scope.md R7 as a field of `Config`, with the
defaults of 92_eei_decisions.md, and the one free value of the model (`Config.rxByte`). Names of devices' registers
and of instructions are closed types, so an unknown name (70_reset_and_hazards.md R307) cannot be written down. -/

namespace Sys2Proof

/-- The fourteen instruction names, the keys of the tables LAT and CLAT (30_encoding.md R104, R110). -/
inductive Mnemonic where
  | addik | imm | beqi | blt | bralid | lhu | lhui | sh | shi | mfs | msrclr | pcmpbf | pcmpeq | sext8
  deriving DecidableEq, Repr

/-- The register names of the two device variants (10_state.md R38, R39). -/
inductive RegName where
  | tcsr0 | tlr0 | tcr0 | tcsr1 | tlr1 | tcr1
  | ctrl | status | rx | tx
  deriving DecidableEq, Repr

/-- The closed set of device variants (60_exceptions.md R250). -/
inductive Variant where
  | timer | byteStream
  deriving DecidableEq, Repr

/-- The declared register set of a variant, in register order (10_state.md R38, R39; 20_memory.md R84). -/
def Variant.declared : Variant → List RegName
  | .timer => [.tcsr0, .tlr0, .tcr0, .tcsr1, .tlr1, .tcr1]
  | .byteStream => [.ctrl, .status, .rx, .tx]

/-- Inclusive byte-address bounds of a region (00_scope.md R7). -/
structure Bounds where
  base : Word
  last : Word
  deriving DecidableEq, Repr

/-- The address lies between the inclusive bounds (20_memory.md R64). -/
def Bounds.contains (b : Bounds) (a : Word) : Bool :=
  decide (b.base.toNat ≤ a.toNat) && decide (a.toNat ≤ b.last.toNat)

/-- A read and a write latency in cycles (20_memory.md R66). -/
structure Latency where
  rd : Nat
  wr : Nat
  deriving DecidableEq, Repr

/-- One configured device (20_memory.md R84): a name, a variant tag, its (register, address) pairs, its latencies. -/
structure DeviceCfg where
  name : String
  variant : Variant
  regs : List (RegName × Word)
  lat : Latency
  deriving DecidableEq, Repr

/-- A function range of the symbol table, half-open (70_reset_and_hazards.md R326). -/
structure FuncRange where
  name : String
  first : Word
  past : Word
  deriving DecidableEq, Repr

/-- When hardware clears the "currently in delay slot" bit (93_implementation_defined.md U5). -/
inductive DsClear where
  | never | nextRetire
  deriving DecidableEq, Repr

/-- The parameters of the block (00_scope.md R7). `ilen` is ILEN, in bits; `opb` is OPB_PRESENT with OPB_BASE and OPB_END;
`pvr` is PVR with N_PVR as its length; `lat` and `clat` are LAT and CLAT, an absent entry standing for the default 1. -/
structure Config where
  ilen : Nat
  lmb : Bounds
  opb : Option Bounds
  lmbLat : Latency
  opbLat : Latency
  mapLat : Latency
  devices : List DeviceCfg
  lat : List (Mnemonic × Nat)
  clat : List (Mnemonic × Nat)
  resetPc : Word
  msrReset : Word
  intVector : Word
  intLink : RegIdx
  exitAddr : Option Word
  pvr : List Word
  msrIe : Word
  msrC : Word
  msrDs : Word
  dsClear : DsClear
  esrEcUnaligned : BitVec 5
  bigEndian : Bool
  r0Zero : Bool
  tmrGenerateCode : Bool
  bsStatus : Word
  funcs : List FuncRange
  deriving DecidableEq, Repr

/-- The configuration `State.reset` starts from. Every decided parameter has its default of 00_scope.md R7. DESIGN
CHOICE (log entry 2; unsafe for statements about `State.reset` alone) for the parameters the spec leaves OPEN (D35,
D41): the local-fast region and its latencies of 95_test_vectors.md's conventions, the bus-peripheral region and the
byte-stream device of its vector V60.20, the timer of its program P4, fallback latencies 1, no EXIT_ADDR. -/
def Config.default : Config where
  ilen := 32
  lmb := ⟨0x00000000#32, 0x0000FFFF#32⟩
  opb := some ⟨0x40000000#32, 0x4000FFFF#32⟩
  lmbLat := ⟨1, 1⟩
  opbLat := ⟨1, 1⟩
  mapLat := ⟨1, 1⟩
  devices :=
    [{ name := "timer", variant := .timer, lat := ⟨1, 1⟩,
       regs := [(.tcsr0, 0x80000000#32), (.tlr0, 0x80000004#32), (.tcr0, 0x80000008#32),
                (.tcsr1, 0x80000010#32), (.tlr1, 0x80000014#32), (.tcr1, 0x80000018#32)] },
     { name := "bytestream", variant := .byteStream, lat := ⟨1, 1⟩,
       regs := [(.ctrl, 0x40000000#32), (.status, 0x40000004#32), (.rx, 0x40000008#32), (.tx, 0x4000000C#32)] }]
  lat := []
  clat := []
  resetPc := 0x00000000#32
  msrReset := 0x00000000#32
  intVector := 0x00000010#32
  intLink := 14#5
  exitAddr := none
  pvr := List.replicate 12 0#32
  msrIe := 0x00000002#32
  msrC := 0x00000004#32
  msrDs := 0x00008000#32
  dsClear := .never
  esrEcUnaligned := 1#5
  bigEndian := true
  r0Zero := true
  tmrGenerateCode := false
  bsStatus := 0x00000000#32
  funcs := []

/-- FREE VALUE: the byte RX_SOURCE supplies on its n-th read beyond the bytes the outside world has lined up in
`State.rxBytes`. "any value: RX_SOURCE is an oracle that yields some byte on every read" (93_implementation_defined.md
U7; 60_exceptions.md R268; log entry 6). No body: nothing can be proved about its value. -/
opaque Config.rxByte : Nat → BitVec 8

end Sys2Proof
end

