-- ==== Sys2Proof/Syntax.lean ====
section
/-! DEFINITION. The instruction set: one constructor per row of spec/opcode_table.json (30_encoding.md R104). Operands
are the encoding's fields at their own widths (R101, R102), so every term is an instruction some word encodes. -/

namespace Sys2Proof

/-- The fourteen instructions, in the table's order. Fields the encoding fixes (a condition code, a branch type, a
function code) are no operands. -/
inductive Instr where
  /-- `addik rD, rA, imm` (41_arith_imm.md R170). -/
  | addik (rD rA : RegIdx) (imm16 : BitVec 16)
  /-- `imm imm16` (R171). -/
  | imm (imm16 : BitVec 16)
  /-- `beqi rA, imm` (42_branch.md R180). -/
  | beqi (rA : RegIdx) (imm16 : BitVec 16)
  /-- `blt rA, rB` (R181). -/
  | blt (rA rB : RegIdx)
  /-- `bralid rD, imm` (R182). -/
  | bralid (rD : RegIdx) (imm16 : BitVec 16)
  /-- `lhu rD, rA, rB` (43_load_store.md R191). -/
  | lhu (rD rA rB : RegIdx)
  /-- `lhui rD, rA, imm` (R192). -/
  | lhui (rD rA : RegIdx) (imm16 : BitVec 16)
  /-- `sh rD, rA, rB` (R193). -/
  | sh (rD rA rB : RegIdx)
  /-- `shi rD, rA, imm` (R194). -/
  | shi (rD rA : RegIdx) (imm16 : BitVec 16)
  /-- `mfs rD, rS`, rS by its 14-bit selector (44_special.md R200). -/
  | mfs (rD : RegIdx) (sel : BitVec 14)
  /-- `msrclr rD, imm`, a 15-bit mask (R201). -/
  | msrclr (rD : RegIdx) (imm15 : BitVec 15)
  /-- `pcmpbf rD, rA, rB` (45_compare_extend.md R210). -/
  | pcmpbf (rD rA rB : RegIdx)
  /-- `pcmpeq rD, rA, rB` (R211). -/
  | pcmpeq (rD rA rB : RegIdx)
  /-- `sext8 rD, rA` (R212). -/
  | sext8 (rD rA : RegIdx)
  deriving DecidableEq, Repr

end Sys2Proof
end

