-- ==== Sys2Proof/Machine/State.lean ====
section
/-! DEFINITION. The state of the block as plain data: everything 10_state.md gives it, the outputs of 00_scope.md R8, and
the state right after reset (10_state.md R43). -/

namespace Sys2Proof.Machine

/-- The nine status codes a cycle can return (60_exceptions.md R220). -/
inductive Status where
  | normal | stall | jump | memAccess | memMapped | memUnaligned | illegal | breakpoint | stop
  deriving DecidableEq, Repr

/-- The kind of a bus access (20_memory.md R62). -/
inductive BusKind where
  | read | write
  deriving DecidableEq, Repr

/-- The width of a bus access: 1, 2 or 4 bytes (20_memory.md R62). -/
inductive Width where
  | byte | half | word
  deriving DecidableEq, Repr

/-- The pending access record PEND while its valid bit is 1 (10_state.md R34). `data` is 0 for a read. -/
structure Pending where
  kind : BusKind
  width : Width
  addr : Word
  data : Word
  cnt : Nat
  deriving DecidableEq, Repr

/-- The fetch slot while valid; `word` is `none` for the mark `absent` (10_state.md R31, 20_memory.md R82). -/
structure FetchSlot where
  addr : Word
  word : Option Word
  deriving DecidableEq, Repr

/-- The variant `mn` of an instance with its operand fields: an instruction, a word that is none, or an absent word
(10_state.md R32). -/
inductive InstKind where
  | instr (i : Instr)
  | illegal (word : Word)
  | unfetchable
  deriving DecidableEq, Repr

/-- An instruction instance (10_state.md R32). `upper` is the half-word an IMM prefix gave at finalisation; it holds the
spec's `prefixed` (it is present) and `imm32` (`upper` over imm16, else imm16 sign-extended) once (log entry 11). -/
structure Inst where
  kind : InstKind
  ipc : Word
  lat : Nat
  clat : Option Nat
  cnt : Nat
  started : Bool
  upper : Option (BitVec 16)
  deriving DecidableEq, Repr

/-- A Device Register: "a committed value, a pending value, and a dirty flag" (10_state.md R36). -/
structure DevReg where
  committed : Word
  pending : Word
  dirty : Bool
  deriving DecidableEq, Repr

/-- The nine decoded flags of a TCSR (10_state.md R38). -/
structure TcsrFlags where
  mdt : Bool
  udt : Bool
  arht : Bool
  load : Bool
  enit : Bool
  ent : Bool
  tint : Bool
  pwma : Bool
  enall : Bool
  deriving DecidableEq, Repr

/-- A timer control/status register with its flags (10_state.md R36, R38). -/
structure Tcsr where
  reg : DevReg
  flags : TcsrFlags
  deriving DecidableEq, Repr

/-- One of the two timers of a Timer/Counter: control/status, load register, live counter (10_state.md R38). -/
structure TimerChannel where
  tcsr : Tcsr
  tlr : DevReg
  tcr : DevReg
  deriving DecidableEq, Repr

/-- The Timer/Counter device (10_state.md R37, R38). -/
structure Timer where
  ch0 : TimerChannel
  ch1 : TimerChannel
  irq : Bool
  deriving DecidableEq, Repr

/-- The byte-stream device (10_state.md R37, R39). -/
structure ByteStream where
  ctrl : DevReg
  status : DevReg
  rx : DevReg
  tx : DevReg
  txValid : Bool
  irq : Bool
  deriving DecidableEq, Repr

/-- The mutable part of an OPB device; its name, wiring and latencies are configuration (10_state.md R37). -/
inductive DeviceState where
  | timer (t : Timer)
  | byteStream (b : ByteStream)
  deriving DecidableEq, Repr

/-- The memory image as a byte map: (address, byte) cells. An unlisted address holds no byte: "absent" (10_state.md R33,
20_memory.md R73). -/
abbrev Memory := List Host.Cell

/-- The state of the block. `cfg` is the configuration, a constant of the run (log entry 1); `rst` is the reset input of
the next clock edge; `status`, `txOut` and `txSink` are outputs; `rxBytes`, `rxPulled` stand for RX_SOURCE; `dsArmed` serves
DS_CLEAR = next_retire. INVENTORY.md, '## State', names the rule of each field. -/
structure State where
  cfg : Config
  gpr : Vector Word 32
  pc : Word
  msr : Word
  ear : Word
  esr : Word
  fsr : Word
  btr : Word
  uimm : Word
  immPend : Bool
  retired : Nat
  fe : Option FetchSlot
  de : Option Inst
  ex : Option Inst
  mem : Memory
  pend : Option Pending
  devices : List DeviceState
  irqAgg : Nat
  cycle : Nat
  status : Status
  rst : Bool
  rxBytes : List Byte
  rxPulled : Nat
  txOut : List Byte
  txSink : List Byte
  dsArmed : Bool
  deriving DecidableEq, Repr

/-- The model's faults: errors that are not a status code of the block (93_implementation_defined.md part 1). All are
safe: the block's own behaviour there is not in the source. -/
inductive Fault where
  /-- Raised by a bus read that completes on an absent image lane (20_memory.md R73, U2). Safe: the spec gives no value. -/
  | uninitialisedRead (addr : Word)
  /-- Raised by a bus access that completes in the generic mapped fallback with no register (20_memory.md R72, U3). Safe:
  the spec gives no effect. -/
  | unmappedAccess (addr : Word)
  /-- Raised by the step of an UNFETCHABLE instance (40_engine.md R135, U4). Safe: the spec gives no effect. -/
  | noInstruction (addr : Word)
  deriving DecidableEq, Repr

/-- What the model refuses. All are safe: the run ends where the spec says the case is outside the model's domain. -/
inductive Refusal where
  /-- The instruction has no meaning yet. Raised by no arm of `exec`. Safe. -/
  | notModelled (mnemonic : String)
  /-- Raised by operand finalisation: an IMM is followed by what takes no 16-bit immediate (40_engine.md R142, U1). Safe. -/
  | prefixWithoutConsumer (addr : Word)
  /-- Raised by a step of, or a launch with, an ill-formed configuration, and where the device list does not have the
  configured registers (20_memory.md R84, U11). Safe. -/
  | illFormedConfiguration
  /-- Raised by a launch whose image breaks the load contract (20_memory.md R83). Safe. -/
  | illFormedLaunch
  /-- Raised by a host write while the instruction in the execute slot is part-way (U12, 70_reset_and_hazards.md R327).
  Safe. -/
  | hostWriteWhileBusy
  deriving DecidableEq, Repr

/-- A Device Register after reset: committed 0, pending 0, not dirty (10_state.md R43). -/
def DevReg.zero : DevReg := ⟨0, 0, false⟩

/-- Every flag 0 (60_exceptions.md R260). -/
def TcsrFlags.zero : TcsrFlags := ⟨false, false, false, false, false, false, false, false, false⟩

/-- One timer after reset (60_exceptions.md R260). -/
def TimerChannel.zero : TimerChannel := ⟨⟨DevReg.zero, TcsrFlags.zero⟩, DevReg.zero, DevReg.zero⟩

/-- A Timer/Counter after reset: all six registers and all flags zero (60_exceptions.md R260). -/
def Timer.zero : Timer := ⟨TimerChannel.zero, TimerChannel.zero, false⟩

/-- A byte-stream device after reset (60_exceptions.md R271, 10_state.md R43): STATUS is the constant BS_STATUS. -/
def ByteStream.zero (c : Config) : ByteStream :=
  ⟨DevReg.zero, ⟨c.bsStatus, 0, false⟩, DevReg.zero, DevReg.zero, false, false⟩

/-- A device of the variant after its reset operation (60_exceptions.md R250, R260, R271). -/
def DeviceState.zero (c : Config) : Variant → DeviceState
  | .timer => .timer Timer.zero
  | .byteStream => .byteStream (ByteStream.zero c)

/-- Power-on: a reset with IMAGE = IMAGE0 (70_reset_and_hazards.md R300; the table of 10_state.md R43). The fields that are
not the spec's (`status`, `rst`, `rxBytes`, `rxPulled`, `txSink`, `dsArmed`) start as log entry 3 says (DESIGN CHOICE). -/
def State.powerOn (c : Config) (image : Memory) : State where
  cfg := c
  gpr := Vector.replicate 32 0
  pc := c.resetPc
  msr := c.msrReset
  ear := 0
  esr := 0
  fsr := 0
  btr := 0
  uimm := 0
  immPend := false
  retired := 0
  fe := none
  de := none
  ex := none
  mem := image
  pend := none
  devices := c.devices.map (fun d => DeviceState.zero c d.variant)
  irqAgg := 0
  cycle := 0
  status := .normal
  rst := false
  rxBytes := []
  rxPulled := 0
  txOut := []
  txSink := []
  dsArmed := false

/-- The machine right after reset (10_state.md R43), under the configuration of `Config.default`, with nothing loaded: the
image is supplied from outside (10_state.md R33, R44). -/
def State.reset : State := State.powerOn Config.default []

end Sys2Proof.Machine
end

