-- ==== Sys2Proof/Machine/Flags.lean ====
section
/-! DEFINITION. The bits of the machine status register and of the exception status register: every flag computation of the
spec (10_state.md R23, R25, R42). No instruction computes the carry; the masks are parameters. -/

namespace Sys2Proof.Machine

/-- MSR[IE] is set (10_state.md R23; 60_exceptions.md R230). -/
def State.interruptsEnabled (s : State) : Bool := decide (s.msr &&& s.cfg.msrIe ≠ 0)

/-- `MSR & ~MSR_IE` (60_exceptions.md R231). -/
def State.msrWithoutIe (s : State) : Word := s.msr &&& ~~~s.cfg.msrIe

/-- `MSR | MSR_DS` (42_branch.md R182). -/
def State.msrWithDs (s : State) : Word := s.msr ||| s.cfg.msrDs

/-- `MSR & ~MSR_DS` (93_implementation_defined.md U5, DS_CLEAR = next_retire). -/
def State.msrWithoutDs (s : State) : Word := s.msr &&& ~~~s.cfg.msrDs

/-- `MSR & ~(zext_15(imm15) & ~MSR_C)`: the masked bits cleared, the carry bit kept (44_special.md R201). -/
def State.msrCleared (s : State) (imm15 : BitVec 15) : Word :=
  s.msr &&& ~~~(imm15.setWidth 32 &&& ~~~s.cfg.msrC)

/-- `ESR_EC_UNALIGNED | (rD << 5) | (S << 10)`: the layout EC 4:0, RX 9:5, S 10, W 11 = 0 (10_state.md R25). -/
def esrUnaligned (c : Config) (rD : RegIdx) (store : Bool) : Word :=
  c.esrEcUnaligned.setWidth 32 ||| (rD.setWidth 32 <<< 5) ||| (if store then 1#32 <<< 10 else 0)

/-- "soft (… simulation continues) and terminal (MEM_UNALIGNED, ILLEGAL, BREAKPOINT, STOP — run-loop must stop)"
(60_exceptions.md R221). -/
def Status.terminal : Status → Bool
  | .normal | .stall | .jump | .memAccess | .memMapped => false
  | .memUnaligned | .illegal | .breakpoint | .stop => true

/-- The status code's number on the 4-bit port (60_exceptions.md R220). -/
def Status.code : Status → BitVec 4
  | .normal => 0
  | .stall => 1
  | .jump => 2
  | .memAccess => 3
  | .memMapped => 4
  | .memUnaligned => 5
  | .illegal => 6
  | .breakpoint => 7
  | .stop => 8

end Sys2Proof.Machine
end

