-- ==== Sys2Proof/Machine/Ops.lean ====
section
/-! DEFINITION. The named operations over registers and memory, the lanes of 20_memory.md R61, and taking an exception: the
recording of an unaligned access (60_exceptions.md R223) and interrupt entry (R230, R231). There is no return from
interrupt to model: "In this spec … a handler cannot return" (R233). -/

namespace Sys2Proof.Machine

/-- Sequencing: go on with `f` from a result, or stop as the first part stopped. -/
def andThen {α β : Type} (o : Host.Outcome α Fault Refusal) (f : α → Host.Outcome β Fault Refusal) :
    Host.Outcome β Fault Refusal :=
  match o with
  | .next a => f a
  | .fault r => .fault r
  | .refused r => .refused r

/-! ### Registers -/

/-- Register 0 is hardwired to zero (10_state.md R21). -/
def State.hardwired (s : State) (r : RegIdx) : Bool := s.cfg.r0Zero && decide (r = 0)

/-- The storage of a general register. -/
def State.stored (s : State) (r : RegIdx) : Word := s.gpr[r.toNat]'r.isLt

/-- `x[r]` (10_state.md R20, R21; 00_scope.md R10). -/
def State.reg (s : State) (r : RegIdx) : Word := if s.hardwired r then 0 else s.stored r

/-- `x[r] <- v`: a write of the hardwired register is discarded (10_state.md R21). -/
def State.writeReg (s : State) (r : RegIdx) (v : Word) : State :=
  { s with gpr := if s.hardwired r then s.gpr else s.gpr.set r.toNat v r.isLt }

/-- Return a status from the cycle (40_engine.md R130). -/
def State.withStatus (s : State) (st : Status) : State := { s with status := st }

/-- "`pc <- target` … means write the CPU's PC with target and return status JUMP" (00_scope.md R10). -/
def State.jumpTo (s : State) (target : Word) : State := { s with pc := target, status := .jump }

/-! ### The memory image -/

/-- The byte at an address, `none` where the image holds none (10_state.md R33, 20_memory.md R73). -/
def Memory.read : Memory → Nat → Option Byte
  | [], _ => none
  | (k, v) :: rest, a => if k = a then some v else Memory.read rest a

/-- Write one byte, keeping the cells in rising order. -/
def Memory.write : Memory → Nat → Byte → Memory
  | [], a, b => [(a, b)]
  | (k, v) :: rest, a, b =>
    if a < k then (a, b) :: (k, v) :: rest
    else if a = k then (a, b) :: rest
    else (k, v) :: Memory.write rest a b

/-- The canonical form: addresses strictly rising, each an address of the 32-bit space (20_memory.md R60). An unlisted
address holds no byte, so no listed entry can equal it. -/
def Memory.wf : Memory → Bool
  | [] => true
  | [(k, _)] => decide (k < 2 ^ 32)
  | (k, _) :: (k', v') :: rest => decide (k < k') && Memory.wf ((k', v') :: rest)

/-- The bytes of an access (20_memory.md R62). -/
def Width.bytes : Width → Nat
  | .byte => 1
  | .half => 2
  | .word => 4

/-- The low 8n bits of a datum. -/
def Width.mask : Width → Word
  | .byte => 0x000000FF#32
  | .half => 0x0000FFFF#32
  | .word => 0xFFFFFFFF#32

/-- The byte addresses of an access, from the most to the least significant byte (20_memory.md R61): rising when the block
is big-endian, falling in the mirror rule. -/
def laneAddrs (big : Bool) (n : Width) (a : Nat) : List Nat :=
  match n with
  | .byte => [a]
  | .half => if big then [a, a + 1] else [a + 1, a]
  | .word => if big then [a, a + 1, a + 2, a + 3] else [a + 3, a + 2, a + 1, a]

/-- Join the bytes at the addresses, most significant first, below `acc`; `none` if any of them is absent. -/
def Memory.join (m : Memory) : List Nat → Word → Option Word
  | [], acc => some acc
  | x :: xs, acc =>
    match m.read x with
    | some b => Memory.join m xs ((acc <<< 8) ||| b.setWidth 32)
    | none => none

/-- Store the low bytes of a datum at the addresses, most significant first. -/
def Memory.spread (m : Memory) : List Nat → Word → Memory
  | [], _ => m
  | x :: xs, d => Memory.spread (m.write x ((d >>> (8 * xs.length)).setWidth 8)) xs d

/-- `MemRead(a, n)` from the image: the lane as an unsigned number, `none` where a byte of it is absent (20_memory.md R68,
R73). -/
def Memory.load (m : Memory) (big : Bool) (n : Width) (a : Word) : Option Word :=
  m.join (laneAddrs big n a.toNat) 0

/-- `MemWrite(a, n, d)` to the image: only the addressed lane changes (20_memory.md R69). -/
def Memory.store (m : Memory) (big : Bool) (n : Width) (a : Word) (d : Word) : Memory :=
  m.spread (laneAddrs big n a.toNat) d

/-! ### Lanes of a 32-bit register value -/

/-- `sh = 8·(4 − n − (a & 3))`, or the mirror rule `sh = 8·(a & 3)` (20_memory.md R61). -/
def laneShift (big : Bool) (n : Width) (a : Word) : Nat :=
  if big then 8 * (4 - n.bytes - a.toNat % 4) else 8 * (a.toNat % 4)

/-- The addressed lane of a word, as an unsigned number (20_memory.md R61, R70). -/
def lane (big : Bool) (n : Width) (a : Word) (v : Word) : Word := (v >>> laneShift big n a) &&& n.mask

/-- The word with the addressed lane replaced by the low bits of `d` (20_memory.md R71). -/
def withLane (big : Bool) (n : Width) (a : Word) (v d : Word) : Word :=
  (v &&& ~~~(n.mask <<< laneShift big n a)) ||| ((d &&& n.mask) <<< laneShift big n a)

/-! ### Taking an exception -/

/-- MEM_UNALIGNED: "`EAR <- ea`, the faulting address; `ESR <- …`"; nothing else is saved, no vector is taken, the status goes
to the host (60_exceptions.md R222, R223; 43_load_store.md R190). -/
def State.raiseUnaligned (s : State) (ea : Word) (rD : RegIdx) (store : Bool) : State :=
  { s with esr := esrUnaligned s.cfg rD store, ear := ea, status := .memUnaligned }

/-- The instruction in EX has not begun and did not take an IMM prefix, or EX is empty (60_exceptions.md R230). -/
def State.betweenInstructions (s : State) : Bool :=
  match s.ex with
  | none => true
  | some inst => !inst.started && inst.upper.isNone

/-- `accept(irq_in)` with `irq_in` the aggregate of the previous cycle (60_exceptions.md R230). -/
def State.acceptsInterrupt (s : State) : Bool :=
  decide (s.irqAgg ≠ 0) && s.interruptsEnabled && !s.immPend && s.betweenInstructions

/-- `ra`: the address of the oldest instruction that has not executed (60_exceptions.md R231). -/
def State.resumeAddress (s : State) : Word :=
  match s.ex, s.de, s.fe with
  | some inst, _, _ => inst.ipc
  | none, some inst, _ => inst.ipc
  | none, none, some f => f.addr
  | none, none, none => s.pc

/-- The three slots made empty (40_engine.md R139). -/
def State.emptySlots (s : State) : State := { s with ex := none, de := none, fe := none }

/-- Interrupt entry: the resume address to INT_LINK, MSR[IE] cleared, the slots emptied, PC at INT_VECTOR, status JUMP;
nothing retires (60_exceptions.md R231). -/
def State.interruptEntry (s : State) : State :=
  let linked := s.writeReg s.cfg.intLink s.resumeAddress
  ({ linked with msr := s.msrWithoutIe }.emptySlots).jumpTo s.cfg.intVector

end Sys2Proof.Machine
end

