-- ==== Sys2Proof/Decode.lean ====
section
/-! DEFINITION. The decoder, total on any word and on any bytes, rejecting by name (30_encoding.md R100 to R106), then the
encoder, then the opcode map of R104 as a table. -/

namespace Sys2Proof

/-- Why a word (or a byte string) is no instruction. A rejected word decodes to the ILLEGAL variant (30_encoding.md R106). -/
inductive Reject where
  /-- fewer bytes than an instruction has (R100) -/
  | truncated
  /-- an op value that is not in the table -/
  | unknownOp
  /-- a format-A row with a func other than the one listed -/
  | reservedFunction
  /-- BEQI's or BLT's op with another condition code -/
  | reservedCondition
  /-- BRALID's op with another branch-type code -/
  | reservedBranchType
  /-- IMM with a non-zero rD or rA field -/
  | immFieldsNotZero
  /-- op 100101 in neither the MFS nor the MSRCLR shape -/
  | reservedSpecialForm
  /-- SEXT8's op with another low half -/
  | reservedExtension
  deriving DecidableEq, Repr

/-- `op = w[31:26]` (30_encoding.md R102). -/
def fieldOp (w : Word) : BitVec 6 := w.extractLsb' 26 6
/-- `rD = w[25:21]` (R102). -/
def fieldRd (w : Word) : RegIdx := w.extractLsb' 21 5
/-- `rA = w[20:16]` (R102). -/
def fieldRa (w : Word) : RegIdx := w.extractLsb' 16 5
/-- `rB = w[15:11]` (R102). -/
def fieldRb (w : Word) : RegIdx := w.extractLsb' 11 5
/-- `func = w[10:0]` (R102). -/
def fieldFunc (w : Word) : BitVec 11 := w.extractLsb' 0 11
/-- `imm16 = w[15:0]` (R102). -/
def fieldImm16 (w : Word) : BitVec 16 := w.extractLsb' 0 16
/-- `sel = w[13:0]` (R102). -/
def fieldSel (w : Word) : BitVec 14 := w.extractLsb' 0 14
/-- `w[15:14]`, the two bits that mark format S (R101). -/
def fieldKind (w : Word) : BitVec 2 := w.extractLsb' 14 2
/-- `imm15 = w[14:0]` (R102). -/
def fieldImm15 (w : Word) : BitVec 15 := w.extractLsb' 0 15
/-- `w[15]`, the bit that marks format M (R101). -/
def fieldBit15 (w : Word) : BitVec 1 := w.extractLsb' 15 1

/-- A format-A word whose function code must be the listed one (30_encoding.md R101, R106). -/
def decodeFunc (w : Word) (func : BitVec 11) (i : Instr) : Except Reject Instr :=
  if fieldFunc w = func then .ok i else .error .reservedFunction

/-- The two shapes of op 100101 (30_encoding.md R101, R106). -/
def decodeSpecial (w : Word) : Except Reject Instr :=
  if fieldRa w = 0b00000#5 ∧ fieldKind w = 0b10#2 then .ok (.mfs (fieldRd w) (fieldSel w))
  else if fieldRa w = 0b10001#5 ∧ fieldBit15 w = 0#1 then .ok (.msrclr (fieldRd w) (fieldImm15 w))
  else .error .reservedSpecialForm

/-- Decode one word (30_encoding.md R104, R105, R106). -/
def decodeWord (w : Word) : Except Reject Instr :=
  let op := fieldOp w
  let rD := fieldRd w
  let rA := fieldRa w
  let rB := fieldRb w
  let imm := fieldImm16 w
  if op = 0b001100#6 then .ok (.addik rD rA imm)
  else if op = 0b101100#6 then
    if rD = 0 ∧ rA = 0 then .ok (.imm imm) else .error .immFieldsNotZero
  else if op = 0b101111#6 then
    if rD = 0b00000#5 then .ok (.beqi rA imm) else .error .reservedCondition
  else if op = 0b100111#6 then
    if rD = 0b00010#5 then decodeFunc w 0 (.blt rA rB) else .error .reservedCondition
  else if op = 0b101110#6 then
    if rA = 0b11100#5 then .ok (.bralid rD imm) else .error .reservedBranchType
  else if op = 0b110001#6 then decodeFunc w 0 (.lhu rD rA rB)
  else if op = 0b111001#6 then .ok (.lhui rD rA imm)
  else if op = 0b110101#6 then decodeFunc w 0 (.sh rD rA rB)
  else if op = 0b111101#6 then .ok (.shi rD rA imm)
  else if op = 0b100101#6 then decodeSpecial w
  else if op = 0b100000#6 then decodeFunc w 0b10000000000#11 (.pcmpbf rD rA rB)
  else if op = 0b100010#6 then decodeFunc w 0b10000000000#11 (.pcmpeq rD rA rB)
  else if op = 0b100100#6 then
    if imm = 0x0060#16 then .ok (.sext8 rD rA) else .error .reservedExtension
  else .error .unknownOp

/-- Four bytes as a word, the first the most significant: a word in its big-endian order (20_memory.md R61). -/
def wordOfBytes (b0 b1 b2 b3 : Byte) : Word := b0 ++ b1 ++ b2 ++ b3

/-- The four bytes of a word, the most significant first. -/
def bytesOfWord (w : Word) : List Byte :=
  [w.extractLsb' 24 8, w.extractLsb' 16 8, w.extractLsb' 8 8, w.extractLsb' 0 8]

/-- Decode the instruction at the head of a byte string in big-endian order, with the rest of the string: every
instruction is one 32-bit word (30_encoding.md R100). -/
def decodeBytes : List Byte → Except Reject (Instr × List Byte)
  | b0 :: b1 :: b2 :: b3 :: rest =>
    match decodeWord (wordOfBytes b0 b1 b2 b3) with
    | .ok i => .ok (i, rest)
    | .error e => .error e
  | _ => .error .truncated

/-- The host's question: what the decoder reads from an instruction whose bits are `w`, `nbits` of them given and every
higher bit 0. The one word is laid out in memory order and given to the decoder. -/
def decodeTableWord (nbits w : Nat) : Option Instr :=
  match decodeBytes (bytesOfWord (BitVec.ofNat 32 (w % 2 ^ nbits))) with
  | .ok (i, _) => some i
  | .error _ => none

/-- The word of an instruction: the formats of 30_encoding.md R101 with the fixed fields of R104. -/
def encode : Instr → Word
  | .addik rD rA imm => 0b001100#6 ++ rD ++ rA ++ imm
  | .imm imm => 0b101100#6 ++ 0b00000#5 ++ 0b00000#5 ++ imm
  | .beqi rA imm => 0b101111#6 ++ 0b00000#5 ++ rA ++ imm
  | .blt rA rB => 0b100111#6 ++ 0b00010#5 ++ rA ++ rB ++ 0b00000000000#11
  | .bralid rD imm => 0b101110#6 ++ rD ++ 0b11100#5 ++ imm
  | .lhu rD rA rB => 0b110001#6 ++ rD ++ rA ++ rB ++ 0b00000000000#11
  | .lhui rD rA imm => 0b111001#6 ++ rD ++ rA ++ imm
  | .sh rD rA rB => 0b110101#6 ++ rD ++ rA ++ rB ++ 0b00000000000#11
  | .shi rD rA imm => 0b111101#6 ++ rD ++ rA ++ imm
  | .mfs rD sel => 0b100101#6 ++ rD ++ 0b00000#5 ++ 0b10#2 ++ sel
  | .msrclr rD imm => 0b100101#6 ++ rD ++ 0b10001#5 ++ 0b0#1 ++ imm
  | .pcmpbf rD rA rB => 0b100000#6 ++ rD ++ rA ++ rB ++ 0b10000000000#11
  | .pcmpeq rD rA rB => 0b100010#6 ++ rD ++ rA ++ rB ++ 0b10000000000#11
  | .sext8 rD rA => 0b100100#6 ++ rD ++ rA ++ 0x0060#16

/-- The name of an instruction: the key of its latency (30_encoding.md R110). -/
def Instr.mnemonic : Instr → Mnemonic
  | .addik .. => .addik
  | .imm .. => .imm
  | .beqi .. => .beqi
  | .blt .. => .blt
  | .bralid .. => .bralid
  | .lhu .. => .lhu
  | .lhui .. => .lhui
  | .sh .. => .sh
  | .shi .. => .shi
  | .mfs .. => .mfs
  | .msrclr .. => .msrclr
  | .pcmpbf .. => .pcmpbf
  | .pcmpeq .. => .pcmpeq
  | .sext8 .. => .sext8

/-- A row of the opcode map: "a word w is the instruction when w & mask = match" (30_encoding.md R104). -/
structure OpcodeRow where
  mnemonic : Mnemonic
  bits : Word
  mask : Word
  deriving DecidableEq, Repr

/-- The opcode map of 30_encoding.md R104. -/
def opcodeMap : List OpcodeRow :=
  [⟨.addik, 0x30000000#32, 0xFC000000#32⟩,
   ⟨.imm, 0xB0000000#32, 0xFFFF0000#32⟩,
   ⟨.beqi, 0xBC000000#32, 0xFFE00000#32⟩,
   ⟨.blt, 0x9C400000#32, 0xFFE007FF#32⟩,
   ⟨.bralid, 0xB81C0000#32, 0xFC1F0000#32⟩,
   ⟨.lhu, 0xC4000000#32, 0xFC0007FF#32⟩,
   ⟨.lhui, 0xE4000000#32, 0xFC000000#32⟩,
   ⟨.sh, 0xD4000000#32, 0xFC0007FF#32⟩,
   ⟨.shi, 0xF4000000#32, 0xFC000000#32⟩,
   ⟨.mfs, 0x94008000#32, 0xFC1FC000#32⟩,
   ⟨.msrclr, 0x94110000#32, 0xFC1F8000#32⟩,
   ⟨.pcmpbf, 0x80000400#32, 0xFC0007FF#32⟩,
   ⟨.pcmpeq, 0x88000400#32, 0xFC0007FF#32⟩,
   ⟨.sext8, 0x90000060#32, 0xFC00FFFF#32⟩]

/-- The word matches the row. -/
def OpcodeRow.matches (r : OpcodeRow) (w : Word) : Bool := decide (w &&& r.mask = r.bits)

/-- The immediate-consuming instructions: the five of format B that use imm16 as an operand (30_encoding.md R103). -/
def Instr.consumesImmediate : Instr → Bool
  | .addik .. | .beqi .. | .bralid .. | .lhui .. | .shi .. => true
  | .imm .. | .blt .. | .lhu .. | .sh .. | .mfs .. | .msrclr .. | .pcmpbf .. | .pcmpeq .. | .sext8 .. => false

end Sys2Proof
end

