-- ==== Sys2Proof/Machine/Devices.lean ====
section
/-! DEFINITION. The Device Register protocol (60_exceptions.md R240 to R247), the Timer/Counter (R255 to R260), the byte-stream
device (R265 to R271), and the tick of the device list (40_engine.md R146). -/

namespace Sys2Proof.Machine

/-! ### The Device Register protocol -/

/-- "get() reads committed only" (60_exceptions.md R240). -/
def DevReg.get (r : DevReg) : Word := r.committed

/-- "put(v) stages pending+dirty, never decodes" (R241). -/
def DevReg.put (r : DevReg) (v : Word) : DevReg := { r with pending := v, dirty := true }

/-- `update()` of a register with no configured fields: commit when dirty (R242, R243). -/
def DevReg.update (r : DevReg) : DevReg := if r.dirty then { r with committed := r.pending, dirty := false } else r

/-- The word with bit `n` set to `b`. -/
def setBit (v : Word) (n : Nat) (b : Bool) : Word :=
  if b then v ||| (1#32 <<< n) else v &&& ~~~(1#32 <<< n)

/-- The bit positions of a TCSR (R255). -/
def mdtBit : Nat := 0
/-- Up/down: bit 1 (R255). -/
def udtBit : Nat := 1
/-- Auto-reload or hold: bit 4 (R255). -/
def arhtBit : Nat := 4
/-- Load: bit 5 (R255). -/
def loadBit : Nat := 5
/-- Enable interrupt: bit 6 (R255). -/
def enitBit : Nat := 6
/-- Enable: bit 7 (R255). -/
def entBit : Nat := 7
/-- Interrupt pending, write-1-to-clear: bit 8 (R244, R255). -/
def tintBit : Nat := 8
/-- Pulse-width modulation: bit 9 (R255). -/
def pwmaBit : Nat := 9
/-- Global enable: bit 10 (R246, R255). -/
def enallBit : Nat := 10

/-- `force(tint, b)`: the flag and its committed bit, at once (R245). -/
def Tcsr.forceTint (r : Tcsr) (b : Bool) : Tcsr :=
  ⟨{ r.reg with committed := setBit r.reg.committed tintBit b }, { r.flags with tint := b }⟩

/-- `force(ent, b)` (R245). -/
def Tcsr.forceEnt (r : Tcsr) (b : Bool) : Tcsr :=
  ⟨{ r.reg with committed := setBit r.reg.committed entBit b }, { r.flags with ent := b }⟩

/-- `force(enall, b)` (R245). -/
def Tcsr.forceEnall (r : Tcsr) (b : Bool) : Tcsr :=
  ⟨{ r.reg with committed := setBit r.reg.committed enallBit b }, { r.flags with enall := b }⟩

/-- The flag `tint` after a value is decoded: a written 1 clears it, a written 0 leaves it (R243, R244). -/
def decodedTint (v : Word) (tint : Bool) : Bool := if v.getLsbD tintBit then false else tint

/-- The value a TCSR commits for a written value: bit 8 shows the flag, and ENALL sets ENT (R243, R246). -/
def committedTcsr (v : Word) (tint : Bool) : Word :=
  let shown := setBit v tintBit (decodedTint v tint)
  if v.getLsbD enallBit then setBit shown entBit true else shown

/-- The flags a TCSR decodes from a written value (R243, R246). -/
def decodedFlags (v : Word) (tint : Bool) : TcsrFlags where
  mdt := v.getLsbD mdtBit
  udt := v.getLsbD udtBit
  arht := v.getLsbD arhtBit
  load := v.getLsbD loadBit
  enit := v.getLsbD enitBit
  ent := v.getLsbD entBit || v.getLsbD enallBit
  tint := decodedTint v tint
  pwma := v.getLsbD pwmaBit
  enall := v.getLsbD enallBit

/-- `update()` of a TCSR: the register itself and its sibling, into which a committed ENALL forces `enall` and `ent` within
the same call (R242, R243, R246). -/
def Tcsr.update (r sibling : Tcsr) : Tcsr × Tcsr :=
  if r.reg.dirty then
    let v := r.reg.pending
    (⟨{ r.reg with committed := committedTcsr v r.flags.tint, dirty := false }, decodedFlags v r.flags.tint⟩,
     if v.getLsbD enallBit then (sibling.forceEnall true).forceEnt true else sibling)
  else (r, sibling)

/-! ### The Timer/Counter -/

/-- The step of a counter: +1 up, −1 down, modulo 2^32 (R257). -/
def TcsrFlags.countBy (f : TcsrFlags) : Word := if f.udt then -1 else 1

/-- `advance(t, c)`: at the boundary 0 reload at load ± 1 or hold; else count, with `tint` raised on arrival at 0 (R257).
The second result says that `tint` is forced. -/
def TimerChannel.advance (ch : TimerChannel) (c : Word) : Word × Bool :=
  if c = 0 then
    (if ch.tcsr.flags.arht then ch.tlr.get + ch.tcsr.flags.countBy else 0, false)
  else
    let next := c + ch.tcsr.flags.countBy
    (next, decide (next = 0))

/-- The timer counts: it "is not in 'generate' mode" (R256). -/
def TimerChannel.counting (c : Config) (ch : TimerChannel) : Bool := ch.tcsr.flags.mdt != c.tmrGenerateCode

/-- One timer's part of the tick: load, then advance, then `put` on the counter if either happened (R256). -/
def TimerChannel.count (c : Config) (ch : TimerChannel) : TimerChannel :=
  if ch.counting c then
    let start := if ch.tcsr.flags.load then ch.tlr.get else ch.tcr.get
    if ch.tcsr.flags.ent then
      let adv := ch.advance start
      { ch with tcr := ch.tcr.put adv.1, tcsr := if adv.2 then ch.tcsr.forceTint true else ch.tcsr }
    else if ch.tcsr.flags.load then { ch with tcr := ch.tcr.put start }
    else ch
  else ch

/-- Both PWMA bits are set: counting is skipped (R256). -/
def Timer.pwm (t : Timer) : Bool := t.ch0.tcsr.flags.pwma && t.ch1.tcsr.flags.pwma

/-- The counting half of the tick (R256). -/
def Timer.countBoth (c : Config) (t : Timer) : Timer :=
  if t.pwm then t else { t with ch0 := t.ch0.count c, ch1 := t.ch1.count c }

/-- "the logical OR of (enable-interrupt AND interrupt-pending) over both timers" (R258). -/
def Timer.request (t : Timer) : Bool :=
  (t.ch0.tcsr.flags.enit && t.ch0.tcsr.flags.tint) || (t.ch1.tcsr.flags.enit && t.ch1.tcsr.flags.tint)

/-- The six `update` calls in register order TCSR0, TLR0, TCR0, TCSR1, TLR1, TCR1 (R259). -/
def Timer.updateAll (t : Timer) : Timer :=
  let first := t.ch0.tcsr.update t.ch1.tcsr
  let second := first.2.update first.1
  { t with
    ch0 := ⟨second.2, t.ch0.tlr.update, t.ch0.tcr.update⟩
    ch1 := ⟨second.1, t.ch1.tlr.update, t.ch1.tcr.update⟩ }

/-- `Timer.tick()` (R256): count, evaluate the interrupt output, commit. -/
def Timer.tick (c : Config) (t : Timer) : Timer :=
  let counted := t.countBoth c
  { counted.updateAll with irq := counted.request }

/-! ### The byte-stream device -/

/-- The byte handed to TX_SINK in this tick, if TXVALID (R270). -/
def ByteStream.emitted (b : ByteStream) : Option Byte := if b.txValid then some (b.tx.get.setWidth 8) else none

/-- `ByteStream.tick()` after the emission: commit the four registers, and set TXVALID if TX was dirty (R270). -/
def ByteStream.tick (b : ByteStream) : ByteStream :=
  ⟨b.ctrl.update, b.status.update, b.rx.update, b.tx.update, b.tx.dirty, false⟩

/-! ### The device list -/

/-- One device's tick: its new state and its interrupt-request flag (R250, R265). -/
def DeviceState.tick (c : Config) : DeviceState → DeviceState
  | .timer t => .timer (t.tick c)
  | .byteStream b => .byteStream b.tick

/-- The interrupt-request flag a device holds, 0 or 1 (10_state.md R37, 60_exceptions.md R250). -/
def DeviceState.irq : DeviceState → Bool
  | .timer t => t.irq
  | .byteStream b => b.irq

/-- The byte a device emits in its tick (R270). -/
def DeviceState.emitted : DeviceState → Option Byte
  | .timer _ => none
  | .byteStream b => b.emitted

/-- The sum of the devices' interrupt contributions (60_exceptions.md R251, 40_engine.md R146). -/
def irqSum (ds : List DeviceState) : Nat := (ds.map (fun d => d.irq.toNat)).sum

/-- The devices' half of the cycle: IRQ_AGG cleared, then every device ticked in registration order, its contribution summed
and its byte handed to TX_SINK (40_engine.md R146, 60_exceptions.md R251, R270). -/
def State.tickDevices (s : State) : State :=
  let ticked := s.devices.map (DeviceState.tick s.cfg)
  let bytes := s.devices.filterMap DeviceState.emitted
  { s with devices := ticked, irqAgg := irqSum ticked, txOut := bytes, txSink := s.txSink ++ bytes }

/-! ### Registers by name -/

/-- The register of a Timer/Counter under a name (R255). -/
def Timer.reg? (t : Timer) : RegName → Option DevReg
  | .tcsr0 => some t.ch0.tcsr.reg
  | .tlr0 => some t.ch0.tlr
  | .tcr0 => some t.ch0.tcr
  | .tcsr1 => some t.ch1.tcsr.reg
  | .tlr1 => some t.ch1.tlr
  | .tcr1 => some t.ch1.tcr
  | .ctrl | .status | .rx | .tx => none

/-- The register of a byte-stream device under a name (R265). -/
def ByteStream.reg? (b : ByteStream) : RegName → Option DevReg
  | .ctrl => some b.ctrl
  | .status => some b.status
  | .rx => some b.rx
  | .tx => some b.tx
  | .tcsr0 | .tlr0 | .tcr0 | .tcsr1 | .tlr1 | .tcr1 => none

/-- The register of a device under a name. -/
def DeviceState.reg? (d : DeviceState) (n : RegName) : Option DevReg :=
  match d with
  | .timer t => t.reg? n
  | .byteStream b => b.reg? n

/-- A store's `put` on a register of a Timer/Counter (R241, R255). -/
def Timer.putReg (t : Timer) (n : RegName) (v : Word) : Timer :=
  match n with
  | .tcsr0 => { t with ch0 := { t.ch0 with tcsr := { t.ch0.tcsr with reg := t.ch0.tcsr.reg.put v } } }
  | .tlr0 => { t with ch0 := { t.ch0 with tlr := t.ch0.tlr.put v } }
  | .tcr0 => { t with ch0 := { t.ch0 with tcr := t.ch0.tcr.put v } }
  | .tcsr1 => { t with ch1 := { t.ch1 with tcsr := { t.ch1.tcsr with reg := t.ch1.tcsr.reg.put v } } }
  | .tlr1 => { t with ch1 := { t.ch1 with tlr := t.ch1.tlr.put v } }
  | .tcr1 => { t with ch1 := { t.ch1 with tcr := t.ch1.tcr.put v } }
  | .ctrl | .status | .rx | .tx => t

/-- A store's `put` on a register of a byte-stream device; stores to STATUS and RX are discarded (R266 to R269, U15). -/
def ByteStream.putReg (b : ByteStream) (n : RegName) (v : Word) : ByteStream :=
  match n with
  | .ctrl => { b with ctrl := b.ctrl.put v }
  | .tx => { b with tx := b.tx.put v }
  | .status | .rx | .tcsr0 | .tlr0 | .tcr0 | .tcsr1 | .tlr1 | .tcr1 => b

/-- A store's `put` on a device's register (20_memory.md R71). -/
def DeviceState.putReg (d : DeviceState) (n : RegName) (v : Word) : DeviceState :=
  match d with
  | .timer t => .timer (t.putReg n v)
  | .byteStream b => .byteStream (b.putReg n v)

/-- The device's variant. -/
def DeviceState.variant : DeviceState → Variant
  | .timer _ => .timer
  | .byteStream _ => .byteStream

end Sys2Proof.Machine
end

