-- ==== Sys2Proof/Machine/Bus.lean ====
section
/-! DEFINITION. The Memory Bus (20_memory.md R62 to R75): regions, targets, latencies, the call, and what a completing call reads
or writes. -/

namespace Sys2Proof.Machine

/-- The three regions (20_memory.md R64). -/
inductive Region where
  | lmb | opb | map
  deriving DecidableEq, Repr

/-- "local-fast first, then bus-peripheral (if configured), else generic mapped fallback" (20_memory.md R64). -/
def regionOf (c : Config) (a : Word) : Region :=
  if c.lmb.contains a then .lmb
  else if c.opb.any (fun b => b.contains a) then .opb
  else .map

/-- A register found in REGMAP: the owning device's place in the registration order, the register's name, the device's
latencies (10_state.md R35). -/
structure RegRef where
  dev : Nat
  name : RegName
  lat : Latency
  deriving DecidableEq, Repr

/-- The register name wired at a word address, in one device's list (20_memory.md R84). -/
def regNameAt (a : Word) : List (RegName × Word) → Option RegName
  | [] => none
  | (n, at') :: rest => if at' = a then some n else regNameAt a rest

/-- REGMAP over the devices from place `i` on (10_state.md R35). -/
def regMapFrom (a : Word) : Nat → List DeviceCfg → Option RegRef
  | _, [] => none
  | i, d :: rest =>
    match regNameAt a d.regs with
    | some n => some ⟨i, n, d.lat⟩
    | none => regMapFrom a (i + 1) rest

/-- `a & ~3`. -/
def wordAddr (a : Word) : Word := a &&& ~~~3#32

/-- `REGMAP[a & ~3]` (10_state.md R35, 20_memory.md R65). -/
def regMap (c : Config) (a : Word) : Option RegRef := regMapFrom (wordAddr a) 0 c.devices

/-- What an address stands for (20_memory.md R65). -/
inductive Target where
  | image
  | register (r : RegRef)
  | unmapped
  deriving DecidableEq, Repr

/-- `target(a)` (20_memory.md R65). -/
def targetOf (c : Config) (a : Word) : Target :=
  match regionOf c a with
  | .lmb => .image
  | .opb => match regMap c a with
    | some r => .register r
    | none => .image
  | .map => match regMap c a with
    | some r => .register r
    | none => .unmapped

/-- The read or the write latency of a pair. -/
def latencyFor (l : Latency) : BusKind → Nat
  | .read => l.rd
  | .write => l.wr

/-- `latency(a, k)`: the owning device's for a register, else the region's (20_memory.md R66). -/
def accessLatency (c : Config) (k : BusKind) (a : Word) : Nat :=
  match targetOf c a with
  | .register r => latencyFor r.lat k
  | .image | .unmapped =>
    match regionOf c a with
    | .lmb => latencyFor c.lmbLat k
    | .opb => latencyFor c.opbLat k
    | .map => latencyFor c.mapLat k

/-- The four results of a bus call (20_memory.md R62). A write's READY carries no datum; the model puts 0 there and nothing
reads it. -/
inductive BusReply where
  | ready (v : Word)
  | access
  | mapped
  | unaligned
  deriving DecidableEq, Repr

/-- The pending record is of this very request (20_memory.md R67). -/
def Pending.same (p : Pending) (k : BusKind) (n : Width) (a d : Word) : Bool :=
  decide (p.kind = k) && decide (p.width = n) && decide (p.addr = a) && decide (p.data = d)

/-- The counter after this call: an identical re-issue counts down, any other request is a first issue (20_memory.md R67,
R74). -/
def State.busCount (s : State) (k : BusKind) (n : Width) (a d : Word) : Nat :=
  match s.pend with
  | some p => if p.same k n a d then p.cnt - 1 else accessLatency s.cfg k a - 1
  | none => accessLatency s.cfg k a - 1

/-- "pulls one externally supplied byte" from RX_SOURCE: the next byte the outside world has lined up, else a free value
(60_exceptions.md R268, 93_implementation_defined.md U7, log entry 6). -/
def State.pullRx (s : State) : Byte × State :=
  match s.rxBytes with
  | b :: rest => (b, { s with rxBytes := rest })
  | [] => (Config.rxByte s.rxPulled, { s with rxPulled := s.rxPulled + 1 })

/-- The 32-bit value a bus read of a device register sees, with its side effect: RX pulls a byte, STATUS is the constant
BS_STATUS, every other register answers `get()` (20_memory.md R70; 60_exceptions.md R240, R267, R268). -/
def State.readRegister (s : State) (r : RegRef) : Host.Outcome (Word × State) Fault Refusal :=
  match (s.devices[r.dev]?).bind (fun d => d.reg? r.name) with
  | none => .refused .illFormedConfiguration
  | some reg =>
    match r.name with
    | .rx => .next ((s.pullRx).1.setWidth 32, (s.pullRx).2)
    | .status => .next (s.cfg.bsStatus, s)
    | .tcsr0 | .tlr0 | .tcr0 | .tcsr1 | .tlr1 | .tcr1 | .ctrl | .tx => .next (reg.get, s)

/-- `put` on a device register: the staged value is the committed one with the addressed lane replaced (20_memory.md R71). -/
def State.writeRegister (s : State) (r : RegRef) (n : Width) (a d : Word) : Host.Outcome State Fault Refusal :=
  match (s.devices[r.dev]?).bind (fun dev => dev.reg? r.name) with
  | none => .refused .illFormedConfiguration
  | some reg =>
    .next { s with devices :=
      s.devices.modify r.dev (fun dev => dev.putReg r.name (withLane s.cfg.bigEndian n a reg.get d)) }

/-- The completing call of a read, `MemRead(a, n)` (20_memory.md R68, R70, R72, R73). -/
def State.memRead (s : State) (n : Width) (a : Word) : Host.Outcome (Word × State) Fault Refusal :=
  match targetOf s.cfg a with
  | .image =>
    match s.mem.load s.cfg.bigEndian n a with
    | some v => .next (v, s)
    | none => .fault (.uninitialisedRead a)
  | .register r => andThen (s.readRegister r) (fun vs => .next (lane s.cfg.bigEndian n a vs.1, vs.2))
  | .unmapped => .fault (.unmappedAccess a)

/-- The completing call of a write, `MemWrite(a, n, d)` (20_memory.md R69, R71, R72). -/
def State.memWrite (s : State) (n : Width) (a d : Word) : Host.Outcome State Fault Refusal :=
  match targetOf s.cfg a with
  | .image => .next { s with mem := s.mem.store s.cfg.bigEndian n a d }
  | .register r => s.writeRegister r n a d
  | .unmapped => .fault (.unmappedAccess a)

/-- The address fails the natural alignment of the width (20_memory.md R63). -/
def misaligned (n : Width) (a : Word) : Bool := decide (a.toNat % n.bytes ≠ 0)

/-- `Bus(k, n, a, d)`: alignment, then the latency counter, then the effect on the completing call (20_memory.md R67). -/
def State.bus (s : State) (k : BusKind) (n : Width) (a d : Word) : Host.Outcome (BusReply × State) Fault Refusal :=
  if misaligned n a then .next (.unaligned, s)
  else if 0 < s.busCount k n a d then
    .next (if regionOf s.cfg a = .map then .mapped else .access,
           { s with pend := some ⟨k, n, a, d, s.busCount k n a d⟩ })
  else
    match k with
    | .read => andThen ({ s with pend := none }.memRead n a) (fun vs => .next (.ready vs.1, vs.2))
    | .write => andThen ({ s with pend := none }.memWrite n a d) (fun t => .next (.ready 0, t))

end Sys2Proof.Machine
end

