-- ==== Sys2Proof/Machine/Operands.lean ====
section
/-! DEFINITION. Every operand form of the instruction set: the assembled immediate (30_encoding.md R103), the instruction's own
address (10_state.md R22, R32), the two addressing modes (43_load_store.md R195), the special-register selectors (44_special.md
R200), the byte lanes of the pattern compare and the sign extensions (45_compare_extend.md R210, R212; 00_scope.md R9). -/

namespace Sys2Proof.Machine

/-- `imm32`: "`UIMM[31:16] ∥ imm16` if" an IMM prefix was taken, else `sext_16(imm16)` (30_encoding.md R103). -/
def assembleImmediate (upper : Option (BitVec 16)) (imm16 : BitVec 16) : Word :=
  match upper with
  | some u => u ++ imm16
  | none => imm16.signExtend 32

/-- The prefix half-word the instruction in the execute slot was finalised with (40_engine.md R142). -/
def State.exUpper (s : State) : Option (BitVec 16) :=
  match s.ex with
  | some inst => inst.upper
  | none => none

/-- `imm32` of the instruction in the execute slot (30_encoding.md R103, 40_engine.md R142). -/
def State.imm32 (s : State) (imm16 : BitVec 16) : Word := assembleImmediate s.exUpper imm16

/-- `ipc`: the address the instruction in the execute slot was fetched from (10_state.md R32). With an empty slot no step asks
for it and the model answers PC (DESIGN CHOICE, safe, log entry 12). -/
def State.ipc (s : State) : Word :=
  match s.ex with
  | some inst => inst.ipc
  | none => s.pc

/-- Base + index, modulo 2^32 (43_load_store.md R195). -/
def State.addrIndexed (s : State) (rA rB : RegIdx) : Word := s.reg rA + s.reg rB

/-- Base + immediate, modulo 2^32 (43_load_store.md R195). -/
def State.addrImmediate (s : State) (rA : RegIdx) (imm16 : BitVec 16) : Word := s.reg rA + s.imm32 imm16

/-- The register test of BEQI: `x[rA] = 0` (40_engine.md R132). -/
def State.isZero (s : State) (rA : RegIdx) : Bool := decide (s.reg rA = 0)

/-- The register test of BLT: `x[rA][31] = 1` (40_engine.md R132). -/
def State.isNegative (s : State) (rA : RegIdx) : Bool := (s.reg rA).getLsbD 31

/-- The special register a selector names, `none` for any other code (44_special.md R200). -/
def State.special (s : State) (sel : BitVec 14) : Option Word :=
  if sel = 0x0000#14 then some s.ipc
  else if sel = 0x0001#14 then some s.msr
  else if sel = 0x0003#14 then some s.ear
  else if sel = 0x0005#14 then some s.esr
  else if sel = 0x0007#14 then some s.fsr
  else if sel = 0x000B#14 then some s.btr
  else if 0x2000 ≤ sel.toNat then s.cfg.pvr[sel.toNat - 0x2000]?
  else none

/-- The 1-based index of the first equal byte lane, from the most significant lane, or 0 (45_compare_extend.md R210). -/
def firstEqualLane (a b : Word) : Word :=
  if a.extractLsb' 24 8 = b.extractLsb' 24 8 then 1
  else if a.extractLsb' 16 8 = b.extractLsb' 16 8 then 2
  else if a.extractLsb' 8 8 = b.extractLsb' 8 8 then 3
  else if a.extractLsb' 0 8 = b.extractLsb' 0 8 then 4
  else 0

/-- "writes 1 if the full 32-bit operands match, else 0" (45_compare_extend.md R211). -/
def equalFlag (a b : Word) : Word := if a = b then 1 else 0

/-- `sext_8`: bit 7 of the low byte across the upper 24 bits (45_compare_extend.md R212, 00_scope.md R9). -/
def signExtendByte (v : Word) : Word := (v.extractLsb' 0 8).signExtend 32

end Sys2Proof.Machine
end

