-- ==== Sys2Proof/Machine/Arith.lean ====
section
/-! DEFINITION. ADDIK and IMM (41_arith_imm.md R170, R171): the effect an instance performs when its latency resolves. -/

namespace Sys2Proof.Machine

/-- ADDIK: `x[rD] <- (x[rA] + imm32) mod 2^32`, no flag (41_arith_imm.md R170, R172). -/
def execAddik (rD rA : RegIdx) (imm16 : BitVec 16) (s : State) : Host.Outcome State Fault Refusal :=
  .next ((s.writeReg rD (s.reg rA + s.imm32 imm16)).withStatus .normal)

/-- IMM: `UIMM <- imm16 ∥ 0x0000; IMMPEND <- 1` (41_arith_imm.md R171). -/
def execImm (imm16 : BitVec 16) (s : State) : Host.Outcome State Fault Refusal :=
  .next { s with uimm := imm16 ++ 0#16, immPend := true, status := .normal }

end Sys2Proof.Machine
end

