-- ==== Sys2Proof/Machine/Branch.lean ====
section
/-! DEFINITION. BEQI, BLT and BRALID (42_branch.md R180 to R183). -/

namespace Sys2Proof.Machine

/-- A conditional branch: to `ipc + offset` with status JUMP when taken, else NORMAL (42_branch.md R180, R181, R183). -/
def State.branchIf (s : State) (taken : Bool) (offset : Word) : State :=
  if taken then s.jumpTo (s.ipc + offset) else s.withStatus .normal

/-- BEQI: taken when `x[rA] = 0`, offset `imm32` (42_branch.md R180). -/
def execBeqi (rA : RegIdx) (imm16 : BitVec 16) (s : State) : Host.Outcome State Fault Refusal :=
  .next (s.branchIf (s.isZero rA) (s.imm32 imm16))

/-- BLT: taken when `x[rA][31] = 1`, offset `x[rB]` (42_branch.md R181). -/
def execBlt (rA rB : RegIdx) (s : State) : Host.Outcome State Fault Refusal :=
  .next (s.branchIf (s.isNegative rA) (s.reg rB))

/-- BRALID: `x[rD] <- ipc; MSR <- MSR | MSR_DS; PC <- imm32`, status JUMP (42_branch.md R182). -/
def execBralid (rD : RegIdx) (imm16 : BitVec 16) (s : State) : Host.Outcome State Fault Refusal :=
  .next ({ s.writeReg rD s.ipc with msr := s.msrWithDs }.jumpTo (s.imm32 imm16))

end Sys2Proof.Machine
end

