-- ==== Sys2Proof/Machine/Compare.lean ====
section
/-! DEFINITION. PCMPBF, PCMPEQ and SEXT8 (45_compare_extend.md R210 to R212). -/

namespace Sys2Proof.Machine

/-- PCMPBF: the index of the first equal byte lane (45_compare_extend.md R210). -/
def execPcmpbf (rD rA rB : RegIdx) (s : State) : Host.Outcome State Fault Refusal :=
  .next ((s.writeReg rD (firstEqualLane (s.reg rA) (s.reg rB))).withStatus .normal)

/-- PCMPEQ: 1 or 0 (45_compare_extend.md R211). -/
def execPcmpeq (rD rA rB : RegIdx) (s : State) : Host.Outcome State Fault Refusal :=
  .next ((s.writeReg rD (equalFlag (s.reg rA) (s.reg rB))).withStatus .normal)

/-- SEXT8: the low byte sign-extended (45_compare_extend.md R212). -/
def execSext8 (rD rA : RegIdx) (s : State) : Host.Outcome State Fault Refusal :=
  .next ((s.writeReg rD (signExtendByte (s.reg rA))).withStatus .normal)

end Sys2Proof.Machine
end

