-- ==== Sys2Proof/Machine/LoadStore.lean ====
section
/-! DEFINITION. LHU, LHUI, SH and SHI over the common effect `memop` (43_load_store.md R190 to R195). -/

namespace Sys2Proof.Machine

/-- `x[rD][15:0]`, the datum of a half-word store (43_load_store.md R190). -/
def State.storeDatum (s : State) (rD : RegIdx) : Word := (s.reg rD) &&& 0x0000FFFF#32

/-- The half of `memop` after the bus has answered with a status other than READY (43_load_store.md R190). -/
def State.afterWait (s : State) (ea : Word) (rD : RegIdx) (store : Bool) : BusReply → State
  | .unaligned => s.raiseUnaligned ea rD store
  | .mapped => { s with ear := ea, status := .memMapped }
  | .access => s.withStatus .memAccess
  | .ready v => if store then s.withStatus .normal else (s.writeReg rD v).withStatus .normal

/-- `memop(I, ea, 0)`: a half-word load, zero-extended (43_load_store.md R190). -/
def State.loadHalf (s : State) (ea : Word) (rD : RegIdx) : Host.Outcome State Fault Refusal :=
  andThen (s.bus .read .half ea 0) (fun r => .next (r.2.afterWait ea rD false r.1))

/-- `memop(I, ea, 1)`: a half-word store of `x[rD][15:0]` (43_load_store.md R190). -/
def State.storeHalf (s : State) (ea : Word) (rD : RegIdx) : Host.Outcome State Fault Refusal :=
  andThen (s.bus .write .half ea (s.storeDatum rD)) (fun r => .next (r.2.afterWait ea rD true r.1))

/-- LHU: load from `x[rA] + x[rB]` (43_load_store.md R191). -/
def execLhu (rD rA rB : RegIdx) (s : State) : Host.Outcome State Fault Refusal :=
  s.loadHalf (s.addrIndexed rA rB) rD

/-- LHUI: load from `x[rA] + imm32` (43_load_store.md R192). -/
def execLhui (rD rA : RegIdx) (imm16 : BitVec 16) (s : State) : Host.Outcome State Fault Refusal :=
  s.loadHalf (s.addrImmediate rA imm16) rD

/-- SH: store to `x[rA] + x[rB]` (43_load_store.md R193). -/
def execSh (rD rA rB : RegIdx) (s : State) : Host.Outcome State Fault Refusal :=
  s.storeHalf (s.addrIndexed rA rB) rD

/-- SHI: store to `x[rA] + imm32` (43_load_store.md R194). -/
def execShi (rD rA : RegIdx) (imm16 : BitVec 16) (s : State) : Host.Outcome State Fault Refusal :=
  s.storeHalf (s.addrImmediate rA imm16) rD

end Sys2Proof.Machine
end

