-- ==== Sys2Proof/Machine/Special.lean ====
section
/-! DEFINITION. MFS and MSRCLR (44_special.md R200, R201). -/

namespace Sys2Proof.Machine

/-- MFS: the selected special register to rD; a selector that names none returns ILLEGAL and writes nothing (44_special.md
R200; 60_exceptions.md R224). -/
def execMfs (rD : RegIdx) (sel : BitVec 14) (s : State) : Host.Outcome State Fault Refusal :=
  match s.special sel with
  | some v => .next ((s.writeReg rD v).withStatus .normal)
  | none => .next (s.withStatus .illegal)

/-- MSRCLR: the old MSR to rD, the masked bits but carry cleared (44_special.md R201). -/
def execMsrclr (rD : RegIdx) (imm15 : BitVec 15) (s : State) : Host.Outcome State Fault Refusal :=
  .next ({ s.writeReg rD s.msr with msr := s.msrCleared imm15 }.withStatus .normal)

end Sys2Proof.Machine
end

