-- ==== Sys2Proof/Machine/Dispatch.lean ====
section
/-! DEFINITION. `exec`: the effect of the instruction in the execute slot, performed on the tick on which its latency counter
resolves (40_engine.md R131). One arm per constructor. -/

namespace Sys2Proof.Machine

def exec (i : Instr) (s : State) : Host.Outcome State Fault Refusal :=
  match i with
  | .addik rD rA imm16 => Sys2Proof.Machine.execAddik rD rA imm16 s
  | .imm imm16 => Sys2Proof.Machine.execImm imm16 s
  | .beqi rA imm16 => Sys2Proof.Machine.execBeqi rA imm16 s
  | .blt rA rB => Sys2Proof.Machine.execBlt rA rB s
  | .bralid rD imm16 => Sys2Proof.Machine.execBralid rD imm16 s
  | .lhu rD rA rB => Sys2Proof.Machine.execLhu rD rA rB s
  | .lhui rD rA imm16 => Sys2Proof.Machine.execLhui rD rA imm16 s
  | .sh rD rA rB => Sys2Proof.Machine.execSh rD rA rB s
  | .shi rD rA imm16 => Sys2Proof.Machine.execShi rD rA imm16 s
  | .mfs rD sel => Sys2Proof.Machine.execMfs rD sel s
  | .msrclr rD imm15 => Sys2Proof.Machine.execMsrclr rD imm15 s
  | .pcmpbf rD rA rB => Sys2Proof.Machine.execPcmpbf rD rA rB s
  | .pcmpeq rD rA rB => Sys2Proof.Machine.execPcmpeq rD rA rB s
  | .sext8 rD rA => Sys2Proof.Machine.execSext8 rD rA s

end Sys2Proof.Machine
end

