-- ==== Sys2Proof/WellFormed.lean ====
section
/-! DEFINITION. What must hold before any cycle runs: the configuration's well-formedness (00_scope.md R7, 10_state.md
R23, 20_memory.md R84, 30_encoding.md R100, 70_reset_and_hazards.md R307, 93_implementation_defined.md U11) and the load contract (20_memory.md
R83, 70_reset_and_hazards.md R306). An `Instr` needs no check: its operands have the widths of the encoding's fields, so
each term is the decoding of a word. -/

namespace Sys2Proof

/-- "latency counters are always ≥1": both latencies of a pair are at least 1 (00_scope.md R7). -/
def Latency.wf (l : Latency) : Bool := decide (1 ≤ l.rd) && decide (1 ≤ l.wr)

/-- Every configured latency is at least 1 (00_scope.md R7, 20_memory.md R84). -/
def Config.latenciesOk (c : Config) : Bool :=
  c.lmbLat.wf && c.opbLat.wf && c.mapLat.wf && c.devices.all (fun d => d.lat.wf)
    && c.lat.all (fun e => decide (1 ≤ e.2)) && c.clat.all (fun e => decide (1 ≤ e.2))

/-- The word has exactly one bit set. -/
def isSingleBit (w : Word) : Bool := (List.range 32).any (fun k => decide (w = 1#32 <<< k))

/-- "The three masks must be three distinct single bits" (10_state.md R23). -/
def Config.masksOk (c : Config) : Bool :=
  isSingleBit c.msrIe && isSingleBit c.msrC && isSingleBit c.msrDs
    && decide (c.msrIe ≠ c.msrC) && decide (c.msrIe ≠ c.msrDs) && decide (c.msrC ≠ c.msrDs)

/-- "multiples of 4 at the low end and one less than a multiple of 4 at the high end" (20_memory.md R84). -/
def Bounds.wf (b : Bounds) : Bool := decide (b.base.toNat % 4 = 0) && decide (b.last.toNat % 4 = 3)

/-- Both regions have aligned bounds (20_memory.md R84). -/
def Config.boundsOk (c : Config) : Bool := c.lmb.wf && c.opb.all Bounds.wf

/-- The register list has exactly the names of the variant's declared set, each once (70_reset_and_hazards.md R307). -/
def DeviceCfg.registersDeclared (d : DeviceCfg) : Bool :=
  decide (d.regs.length = d.variant.declared.length)
    && d.variant.declared.all (fun r => decide ((d.regs.map Prod.fst).count r = 1))

/-- Every address at which a device register is wired, in configuration order. -/
def Config.registerAddrs (c : Config) : List Word := c.devices.flatMap (fun d => d.regs.map Prod.snd)

/-- No address occurs twice. -/
def addrsDistinct : List Word → Bool
  | [] => true
  | a :: rest => !rest.contains a && addrsDistinct rest

/-- Register addresses are word aligned, pairwise distinct and outside the local-fast region (20_memory.md R84). -/
def Config.addressesOk (c : Config) : Bool :=
  c.registerAddrs.all (fun a => decide (a.toNat % 4 = 0) && !c.lmb.contains a) && addrsDistinct c.registerAddrs

/-- ILEN is the length the opcode map is written for: "Every instruction is 32 bits long", "There is one length"
(30_encoding.md R100). DESIGN CHOICE (log entry 28): another value is refused. -/
def Config.lengthOk (c : Config) : Bool := decide (c.ilen = 32)

/-- The configuration is well-formed: "A configuration that fails any of these is refused before any cycle runs"
(20_memory.md R84). -/
def Config.wf (c : Config) : Bool :=
  c.lengthOk && c.latenciesOk && c.masksOk && c.boundsOk && c.devices.all DeviceCfg.registersDeclared && c.addressesOk

/-- The address lies in "the union of configured local/bus regions" (20_memory.md R83). -/
def Config.loadable (c : Config) (a : Word) : Bool := c.lmb.contains a || c.opb.any (fun b => b.contains a)

/-- The load contract on a launch (20_memory.md R83): every address of the image is an address of a local or bus region,
and EXIT_ADDR is present when the run needs it. -/
def Config.launchOk (c : Config) (image : List Host.Cell) (exitNeeded : Bool) : Bool :=
  image.all (fun e => decide (e.1 < 2 ^ 32) && c.loadable (BitVec.ofNat 32 e.1)) && (!exitNeeded || c.exitAddr.isSome)

end Sys2Proof
end

