-- ==== Sys2Proof/Machine/Pipeline.lean ====
section
/-! DEFINITION. Fetch, decode, operand finalisation, the step of the execute slot, the pipeline controller's tick, the system
cycle, reset and launch (20_memory.md R82 to R84; 30_encoding.md R105; 40_engine.md R130 to R147; 70_reset_and_hazards.md R300 to
R306). -/

namespace Sys2Proof.Machine

/-! ### Fetch and decode -/

/-- The bytes of an instruction: ILEN / 8, which is 4 in a configuration that may run (30_encoding.md R100, log entry 28). -/
def instrBytes (c : Config) : Nat := c.ilen / 8

/-- `Fetch(p)`: the image word at an instruction-aligned address of the local-fast or bus-peripheral region, else `absent`
(20_memory.md R82). A word with an absent byte is no word (DEDUCED, safe, log entry 7). -/
def State.fetch (s : State) (p : Word) : Option Word :=
  if p.toNat % instrBytes s.cfg = 0 ∧ regionOf s.cfg p ≠ .map then s.mem.load s.cfg.bigEndian .word p else none

/-- The fetch slot for an address (40_engine.md R138). -/
def State.fetchSlot (s : State) (p : Word) : FetchSlot := ⟨p, s.fetch p⟩

/-- A latency table's entry, 1 where it has none (00_scope.md R7, 30_encoding.md R110). -/
def latencyOf (m : Mnemonic) : List (Mnemonic × Nat) → Nat
  | [] => 1
  | (m', n) :: rest => if m' = m then n else latencyOf m rest

/-- What a fetched word is (30_encoding.md R105). -/
def kindOf (word : Option Word) : InstKind :=
  match word with
  | none => .unfetchable
  | some w =>
    match decodeWord w with
    | .ok i => .instr i
    | .error _ => .illegal w

/-- LAT[mn]; the two variants that are no instruction "have no latency" (30_encoding.md R110), so their counter rests at 1. -/
def InstKind.lat (c : Config) : InstKind → Nat
  | .instr i => latencyOf i.mnemonic c.lat
  | .illegal _ | .unfetchable => 1

/-- "`clat = CLAT[mn]` for BEQI and BLT" (30_encoding.md R105). -/
def InstKind.clat (c : Config) : InstKind → Option Nat
  | .instr (.beqi _ _) => some (latencyOf .beqi c.clat)
  | .instr (.blt _ _) => some (latencyOf .blt c.clat)
  | _ => none

/-- Decode: a fresh instance with a freshly seeded counter (30_encoding.md R105). -/
def decodeSlot (c : Config) (f : FetchSlot) : Inst where
  kind := kindOf f.word
  ipc := f.addr
  lat := (kindOf f.word).lat c
  clat := (kindOf f.word).clat c
  cnt := (kindOf f.word).lat c
  started := false
  upper := none

/-! ### Operand finalisation -/

/-- The instance takes a 16-bit immediate operand (30_encoding.md R103). -/
def InstKind.consumesImmediate : InstKind → Bool
  | .instr i => i.consumesImmediate
  | .illegal _ | .unfetchable => false

/-- `finalise(I)` and its effect on IMMPEND (40_engine.md R142). An IMM before what takes no 16-bit immediate is refused:
"the model refuses such a program" (R142, 93_implementation_defined.md U1, log entry 10). -/
def State.finalise (s : State) (inst : Inst) : Host.Outcome (Inst × State) Fault Refusal :=
  if inst.kind.consumesImmediate then
    if s.immPend then
      .next ({ inst with upper := some (s.uimm.extractLsb' 16 16) }, { s with immPend := false })
    else .next ({ inst with upper := none }, s)
  else if s.immPend then .refused (.prefixWithoutConsumer inst.ipc)
  else .next (inst, s)

/-- Fill EX from DE: an empty slot stays empty (40_engine.md R138, R142). -/
def State.fillEx (s : State) : Host.Outcome State Fault Refusal :=
  match s.de with
  | none => .next { s with ex := none }
  | some inst => andThen (s.finalise inst) (fun r => .next { r.2 with ex := some r.1 })

/-! ### Retirement, advance, flush -/

/-- The instance is a BRALID. -/
def InstKind.isBralid : InstKind → Bool
  | .instr (.bralid _ _) => true
  | _ => false

/-- DS_CLEAR at a retirement (93_implementation_defined.md U5): never, or "the bit is cleared when the next instruction after the
BRALID retires". -/
def State.clearDelaySlotBit (s : State) (inst : Inst) : State :=
  match s.cfg.dsClear with
  | .never => s
  | .nextRetire =>
    if inst.kind.isBralid then { s with dsArmed := true }
    else if s.dsArmed then { s with msr := s.msrWithoutDs, dsArmed := false }
    else s

/-- Retirement of the instruction in EX, if there is one (40_engine.md R143). -/
def State.retire (s : State) : State :=
  match s.ex with
  | none => s
  | some inst => { s.clearDelaySlotBit inst with retired := s.retired + 1 }

/-- The DE and FE half of an advance, after EX has been filled: DE from FE, FE from the fetch at PC, PC on by one instruction
(40_engine.md R138). -/
def State.shiftFetch (s : State) : State :=
  { s with de := s.fe.map (decodeSlot s.cfg), fe := some (s.fetchSlot s.pc),
           pc := s.pc + BitVec.ofNat 32 (instrBytes s.cfg) }

/-- Advance, on status NORMAL (40_engine.md R138). -/
def State.advance (s : State) : Host.Outcome State Fault Refusal :=
  andThen s.retire.fillEx (fun t => .next t.shiftFetch)

/-- Flush, on status JUMP: the instruction retires and the slots are emptied (40_engine.md R139). -/
def State.flush (s : State) : State := s.retire.emptySlots

/-! ### The step of the execute slot -/

/-- `cond(I)`: the condition of a conditional branch on the registers as they stand (40_engine.md R132). -/
def State.branchCondition (s : State) : InstKind → Bool
  | .instr (.beqi rA _) => s.isZero rA
  | .instr (.blt rA _) => s.isNegative rA
  | _ => false

/-- The instance as its first step leaves it: started, with the conditional latency if its condition holds (40_engine.md R131,
R132). -/
def State.begun (s : State) (inst : Inst) : Inst :=
  if inst.started then inst
  else
    { inst with
      started := true
      cnt := if s.branchCondition inst.kind then inst.clat.getD inst.cnt else inst.cnt }

/-- The instruction's part of `step(I)` (40_engine.md R131): count down, and stall while ticks remain; on the last tick put the
counter back to 1 and perform the effect. -/
def State.stepInstr (s : State) (inst : Inst) (i : Instr) : Host.Outcome State Fault Refusal :=
  let b := s.begun inst
  if 1 < b.cnt then .next { s with ex := some { b with cnt := b.cnt - 1 }, status := .stall }
  else exec i { s with ex := some { b with cnt := 1 } }

/-- `step(I)` of the execute slot (40_engine.md R131, R133 to R136): empty, STOP, UNFETCHABLE, ILLEGAL, then the instruction. -/
def State.stepEx (s : State) : Host.Outcome State Fault Refusal :=
  match s.ex with
  | none => .next (s.withStatus .normal)
  | some inst =>
    if s.cfg.exitAddr = some inst.ipc then .next (s.withStatus .stop)
    else
      match inst.kind with
      | .unfetchable => .fault (.noInstruction inst.ipc)
      | .illegal _ => .next (s.withStatus .illegal)
      | .instr i => s.stepInstr inst i

/-! ### The controller's tick and the system cycle -/

/-- What the controller does with the status the step returned (40_engine.md R137 to R141). -/
def State.settle (s : State) : Host.Outcome State Fault Refusal :=
  match s.status with
  | .normal => s.advance
  | .jump => .next s.flush
  | .stall | .memAccess | .memMapped => .next s
  | .memUnaligned | .illegal | .breakpoint | .stop => .next s

/-- `CPU.tick(irq_in)` (40_engine.md R137). -/
def State.cpuTick (s : State) : Host.Outcome State Fault Refusal :=
  if s.acceptsInterrupt then .next s.interruptEntry
  else andThen s.stepEx State.settle

/-- The end of a cycle: the devices tick and CYCLE counts (40_engine.md R146). -/
def State.endCycle (s : State) : State := { s.tickDevices with cycle := s.cycle + 1 }

/-- `System.cycle()` (40_engine.md R146). -/
def State.systemCycle (s : State) : Host.Outcome State Fault Refusal :=
  andThen s.cpuTick (fun t => .next t.endCycle)

/-! ### Placing one instruction -/

/-- The image with a word at PC, the instance of that word finalised in EX, the other slots empty, PC behind it: the state three
advances over the word would leave, but for what they would have fetched behind it (40_engine.md R138, R142; log entry 19). -/
def State.placeWord (s : State) (w : Word) : State :=
  let stored := { s with mem := s.mem.store s.cfg.bigEndian .word s.pc w }
  let inst := decodeSlot s.cfg (stored.fetchSlot s.pc)
  let placed := { stored with ex := some inst, de := none, fe := none,
                              pc := s.pc + BitVec.ofNat 32 (instrBytes s.cfg) }
  match placed.finalise inst with
  | .next r => { r.2 with ex := some r.1 }
  | _ => placed

/-! ### Reset and launch -/

/-- The reset operation (70_reset_and_hazards.md R300 to R303): every piece of state as at power-on, but the image, the
configuration, the history of emitted bytes and the outside world's bytes, which survive it. The `rst` input is sampled once:
the model lowers it (DESIGN CHOICE, safe, log entry 5). -/
def State.resetOp (s : State) : State :=
  { State.powerOn s.cfg s.mem with rxBytes := s.rxBytes, rxPulled := s.rxPulled, txSink := s.txSink }

/-- A launch: "a pair (configuration, IMAGE0)"; one that violates the wiring or the load contract is refused, not run
(70_reset_and_hazards.md R306, R307; 20_memory.md R83, R84). -/
def launch (c : Config) (image : Memory) (exitNeeded : Bool) : Host.Outcome State Fault Refusal :=
  if c.wf then
    if image.wf && c.launchOk image exitNeeded then .next (State.powerOn c image) else .refused .illFormedLaunch
  else .refused .illFormedConfiguration

end Sys2Proof.Machine
end

