-- ==== Sys2Proof/Machine/Step.lean ====
section
/-! DEFINITION. One step of the machine: one clock edge (00_scope.md R8, R11), and the host's placing of one instruction. -/

namespace Sys2Proof.Machine

/-- One clock edge: the reset operation when `rst` is sampled high, else one system cycle (70_reset_and_hazards.md R300,
40_engine.md R146). An ill-formed configuration "is refused; no cycle runs" (70_reset_and_hazards.md R307). -/
def step (s : State) : Host.Outcome State Fault Refusal :=
  if s.cfg.wf then
    if s.rst then .next s.resetOp else s.systemCycle
  else .refused .illFormedConfiguration

/-- Place one instruction word so that the very next step runs it: the word is written to the image at PC and brought into the
execute slot as three advances would have brought it, with nothing behind it (log entry 19). -/
def State.withFetchWord (s : State) (nbits w : Nat) : State := s.placeWord (BitVec.ofNat 32 (w % 2 ^ nbits))

end Sys2Proof.Machine
end

