-- ==== Sys2Proof/Machine/HostPort.lean ====
section
/-! DEFINITION. What the host sees and does between cycles: the output ports (00_scope.md R8), the trace queries (40_engine.md
R145), the accessors and the device registers' `put` and `get` (40_engine.md R144, 70_reset_and_hazards.md R327). -/

namespace Sys2Proof.Machine

/-! ### Outputs -/

/-- The `irq` output: 1 exactly when the aggregate computed in the cycle is non-zero (60_exceptions.md R251). -/
def State.irqOut (s : State) : Bool := decide (s.irqAgg ≠ 0)

/-- `ex_valid`: the execute slot is non-empty (40_engine.md R145). -/
def State.exValid (s : State) : Bool := s.ex.isSome

/-- `ex_pc`: the address of the execute slot's instruction, while `ex_valid` (40_engine.md R145). -/
def State.exPc (s : State) : Option Word := s.ex.map (fun inst => inst.ipc)

/-- `tx_valid`: a byte was handed to TX_SINK in the last cycle (00_scope.md R8). -/
def State.txValidOut (s : State) : Bool := !s.txOut.isEmpty

/-- `tx_byte`, while `tx_valid`. With several byte-stream devices the list `txOut` holds each one's byte, in device order. -/
def State.txByteOut (s : State) : Option Byte := s.txOut.head?

/-- "whether an instruction retired in that tick": RETIRED before and after (40_engine.md R145). -/
def retiredIn (before after : State) : Bool := decide (before.retired < after.retired)

/-! ### Accessors -/

/-- A host write: a CPU register through an accessor, or `put` on a device register (70_reset_and_hazards.md R327). -/
inductive HostWrite where
  | gpr (r : RegIdx) (v : Word)
  | pc (v : Word)
  | msr (v : Word)
  | ear (v : Word)
  | esr (v : Word)
  | fsr (v : Word)
  | btr (v : Word)
  | uimm (v : Word)
  | immPend (b : Bool)
  | put (dev : Nat) (name : RegName) (v : Word)
  deriving DecidableEq, Repr

/-- The instruction in EX is part-way through its latency or its bus access (93_implementation_defined.md U12). -/
def State.partWay (s : State) : Bool :=
  match s.ex with
  | some inst => inst.started
  | none => false

/-- A write of CPU state, refused while an instruction is part-way (93_implementation_defined.md U12, log entry 16). -/
def State.hostWriteCpu (s t : State) : Host.Outcome State Fault Refusal :=
  if s.partWay then .refused .hostWriteWhileBusy else .next t

/-- The host's `get()` on a device register (60_exceptions.md R240). -/
def State.hostGet (s : State) (dev : Nat) (name : RegName) : Option Word :=
  ((s.devices[dev]?).bind (fun d => d.reg? name)).map DevReg.get

/-- The host's `put` on a device register; one on STATUS or RX is discarded like a store (60_exceptions.md R241, R267, R268). -/
def State.hostPut (s : State) (dev : Nat) (name : RegName) (v : Word) : Host.Outcome State Fault Refusal :=
  match (s.devices[dev]?).bind (fun d => d.reg? name) with
  | some _ => .next { s with devices := s.devices.modify dev (fun d => d.putReg name v) }
  | none => .refused .illFormedConfiguration

/-- One host write between cycles (40_engine.md R144, 70_reset_and_hazards.md R327). A write of PC does not empty the slots; a
write of x[0] obeys R21. -/
def hostWrite (w : HostWrite) (s : State) : Host.Outcome State Fault Refusal :=
  match w with
  | .gpr r v => s.hostWriteCpu (s.writeReg r v)
  | .pc v => s.hostWriteCpu { s with pc := v }
  | .msr v => s.hostWriteCpu { s with msr := v }
  | .ear v => s.hostWriteCpu { s with ear := v }
  | .esr v => s.hostWriteCpu { s with esr := v }
  | .fsr v => s.hostWriteCpu { s with fsr := v }
  | .btr v => s.hostWriteCpu { s with btr := v }
  | .uimm v => s.hostWriteCpu { s with uimm := v }
  | .immPend b => s.hostWriteCpu { s with immPend := b }
  | .put dev name v => s.hostPut dev name v

end Sys2Proof.Machine
end

