-- ==== Sys2Proof/Machine/RunControl.lean ====
section
/-! DEFINITION. The host's run control (70_reset_and_hazards.md R320 to R325), each loop with a bound on its cycles where the
spec's own may not end, and the profiling run loop (R326). Nothing here is state of the block. -/

namespace Sys2Proof.Machine

/-- Repeat the cycle, at least once when the bound allows, until `done` holds after one or one returns a terminal status, for at
most `bound` cycles. Called with `rst` high (00_scope.md R8 gives no priority between the two inputs): DESIGN CHOICE (log entry 29,
unsafe), the loop repeats `step`, so its first edge is the reset operation, which is no cycle and yet uses up one of the bound. -/
def runUntil (done : State → Bool) : Nat → State → Host.Outcome State Fault Refusal
  | 0, s => .next s
  | bound + 1, s =>
    andThen (step s) (fun t => if t.status.terminal || done t then .next t else runUntil done bound t)

/-- Run exactly N cycles, fewer if one returns a terminal status (70_reset_and_hazards.md R320). With `rst` high at the call the
reset is one of the N edges, and N - 1 cycles follow (DESIGN CHOICE, log entry 29). -/
def runCycles (n : Nat) (s : State) : Host.Outcome State Fault Refusal := runUntil (fun _ => false) n s

/-- Run until N instructions have retired (R321). N = 0 runs no cycle, which R320 says of its loop and R321 does not say of this one
(DESIGN CHOICE, log entry 30). With `rst` high at the call RETIRED is still compared with its value before the reset (DESIGN
CHOICE, log entry 29). -/
def runRetired (n bound : Nat) (s : State) : Host.Outcome State Fault Refusal :=
  if n = 0 then .next s else runUntil (fun t => decide (t.retired = s.retired + n)) bound s

/-- Run a single instruction (R322). With `rst` high at the call RETIRED is still compared with its value before the reset, so
the loop does not end at the first retirement after it unless that value was 0 (DESIGN CHOICE, log entry 29). -/
def runInstruction (bound : Nat) (s : State) : Host.Outcome State Fault Refusal :=
  runUntil (fun t => decide (s.retired < t.retired)) bound s

/-- Run until the instruction at an address is in the execute slot (R323). -/
def runToAddress (a : Word) (bound : Nat) (s : State) : Host.Outcome State Fault Refusal :=
  runUntil (fun t => t.ex.any (fun inst => decide (inst.ipc = a))) bound s

/-- Run until a terminal status (R324); the observable result is the state it leaves (R325). -/
def runToTerminal (bound : Nat) (s : State) : Host.Outcome State Fault Refusal := runUntil (fun _ => false) bound s

/-! ### Profiling -/

/-- The name a cycle is attributed to: a mnemonic or one of the two variants that are no instruction (R326). -/
inductive InstName where
  | mnemonic (m : Mnemonic)
  | illegal
  | unfetchable
  deriving DecidableEq, Repr

/-- The name `mn` of an instance (10_state.md R32). -/
def InstKind.label : InstKind → InstName
  | .instr i => .mnemonic i.mnemonic
  | .illegal _ => .illegal
  | .unfetchable => .unfetchable

/-- One function's tables (70_reset_and_hazards.md R326). -/
structure FuncStats where
  hist : List (InstName × Nat)
  cycles : Nat
  retired : Nat
  calls : Nat
  deriving DecidableEq, Repr

/-- The profiler's tables, one per entry of FUNCS, and `prev_f` (R326). -/
structure Profile where
  stats : List FuncStats
  prev : Option Nat
  deriving DecidableEq, Repr

/-- Empty tables, `prev_f` "none" (R326). -/
def Profile.empty (c : Config) : Profile := ⟨c.funcs.map (fun _ => ⟨[], 0, 0, 0⟩), none⟩

/-- "a function f contains an address a when `begin ≤ a < end`" (R326). -/
def inFunction (f : FuncRange) (a : Word) : Bool :=
  decide (f.first.toNat ≤ a.toNat) && decide (a.toNat < f.past.toNat)

/-- The first function in list order that contains the address (R326, U13). -/
def funcAt (c : Config) (a : Word) : Option Nat := c.funcs.findIdx? (fun f => inFunction f a)

/-- Add one to a name's count. -/
def bump (n : InstName) : List (InstName × Nat) → List (InstName × Nat)
  | [] => [(n, 1)]
  | (m, k) :: rest => if m = n then (m, k + 1) :: rest else (m, k) :: bump n rest

/-- Attribute one cycle to a function (R326). -/
def Profile.attribute (p : Profile) (f : Nat) (n : InstName) (retired : Nat) : Profile where
  stats := p.stats.modify f (fun st =>
    { hist := bump n st.hist, cycles := st.cycles + 1, retired := st.retired + retired,
      calls := if p.prev = some f then st.calls else st.calls + 1 })
  prev := some f

/-- `profile_cycle()`: a cycle with an empty slot or in no function is attributed to nothing (R326). With `rst` high the reset edge
is attributed like a cycle of the instruction it drops, with no retirement (DESIGN CHOICE, log entry 29). -/
def profileCycle (p : Profile) (s : State) : Host.Outcome (Profile × State) Fault Refusal :=
  andThen (step s) (fun t =>
    match s.ex with
    | none => .next (p, t)
    | some inst =>
      match funcAt s.cfg inst.ipc with
      | none => .next (p, t)
      | some f => .next (p.attribute f inst.kind.label (t.retired - s.retired), t))

/-- The profiling run loop: until a terminal status, for at most `bound` cycles (R326, R324). -/
def profileRun : Nat → Profile → State → Host.Outcome (Profile × State) Fault Refusal
  | 0, p, s => .next (p, s)
  | bound + 1, p, s =>
    andThen (profileCycle p s) (fun r => if r.2.status.terminal then .next r else profileRun bound r.1 r.2)

end Sys2Proof.Machine
end

