-- ==== Sys2Proof/Safety.lean ====
section
/-! DEFINITION. The terms claims use: what an instruction's effect leaves alone, the invariant every cycle keeps, and a soft
step, one after which "simulation continues" (60_exceptions.md R221). -/

namespace Sys2Proof.Machine

/-! ### Frames -/

/-- Every general register but those listed reads as before. -/
def SameRegsExcept (rs : List RegIdx) (s t : State) : Prop := ∀ r, r ∉ rs → t.reg r = s.reg r

/-- EAR, ESR, FSR and BTR are as before. -/
def SameExceptionRegs (s t : State) : Prop := t.ear = s.ear ∧ t.esr = s.esr ∧ t.fsr = s.fsr ∧ t.btr = s.btr

/-- The prefix state, UIMM and IMMPEND, is as before. -/
def SamePrefixState (s t : State) : Prop := t.uimm = s.uimm ∧ t.immPend = s.immPend

/-- Every byte of memory reads as before. -/
def SameMemory (s t : State) : Prop := ∀ a, t.mem.read a = s.mem.read a

/-- Every byte of memory outside the two bytes of a half-word reads as before. -/
def SameMemoryOutsideHalf (ea : Word) (s t : State) : Prop :=
  ∀ a, a ≠ ea.toNat → a ≠ ea.toNat + 1 → t.mem.read a = s.mem.read a

/-- The three slots, RETIRED and the delay-slot mark are as before. -/
def SamePipeline (s t : State) : Prop :=
  t.fe = s.fe ∧ t.de = s.de ∧ t.ex = s.ex ∧ t.retired = s.retired ∧ t.dsArmed = s.dsArmed

/-- The pending access, the device registers and RX_SOURCE are as before. -/
def SameBus (s t : State) : Prop :=
  t.pend = s.pend ∧ t.devices = s.devices ∧ t.rxBytes = s.rxBytes ∧ t.rxPulled = s.rxPulled

/-- The configuration, IRQ_AGG, CYCLE, the reset input and the transmit side are as before. -/
def SameSystem (s t : State) : Prop :=
  t.cfg = s.cfg ∧ t.irqAgg = s.irqAgg ∧ t.cycle = s.cycle ∧ t.rst = s.rst ∧ t.txOut = s.txOut ∧ t.txSink = s.txSink

/-- `x[rD] <- v` as a later read sees it: register 0 reads 0 when it is hardwired (10_state.md R21). -/
def ReadsBack (rD : RegIdx) (v : Word) (s t : State) : Prop := t.reg rD = if s.hardwired rD then 0 else v

/-- `t` is `s` with `x[rD] <- v` done and the status NORMAL, and nothing else changed but, perhaps, MSR. -/
def WritesOnly (rD : RegIdx) (v : Word) (s t : State) : Prop :=
  ReadsBack rD v s t ∧ SameRegsExcept [rD] s t ∧ t.status = .normal ∧ t.pc = s.pc ∧ SameExceptionRegs s t ∧
    SamePrefixState s t ∧ SameMemory s t ∧ SamePipeline s t ∧ SameBus s t ∧ SameSystem s t

/-- Nothing changed from `s` to `t` but PC, MSR, the general registers listed and the status. -/
def SameButControl (rs : List RegIdx) (s t : State) : Prop :=
  SameRegsExcept rs s t ∧ SameExceptionRegs s t ∧ SamePrefixState s t ∧ SameMemory s t ∧ SamePipeline s t ∧
    SameBus s t ∧ SameSystem s t

/-- Nothing changed from `s` to `t` but what a half-word access may change: general registers listed, EAR, ESR, memory, the
pending access, the device registers, RX_SOURCE and the status. -/
def SameButAccess (rs : List RegIdx) (s t : State) : Prop :=
  SameRegsExcept rs s t ∧ t.pc = s.pc ∧ t.msr = s.msr ∧ t.fsr = s.fsr ∧ t.btr = s.btr ∧ SamePrefixState s t ∧
    SamePipeline s t ∧ SameSystem s t

/-! ### Half-word accesses -/

/-- `i` is a half-word access with effective address `ea` in state `s`, `rD` its rD field, a store or a load; the address is the
one the meaning computes (43_load_store.md R191 to R195). -/
def AccessOf (store : Bool) (i : Instr) (s : State) (rD : RegIdx) (ea : Word) : Prop :=
  match store with
  | false =>
    (∃ rA rB, i = .lhu rD rA rB ∧ ea = s.addrIndexed rA rB) ∨ (∃ rA imm16, i = .lhui rD rA imm16 ∧ ea = s.addrImmediate rA imm16)
  | true =>
    (∃ rA rB, i = .sh rD rA rB ∧ ea = s.addrIndexed rA rB) ∨ (∃ rA imm16, i = .shi rD rA imm16 ∧ ea = s.addrImmediate rA imm16)

/-- The bus counter of that access after this tick's call is `n`: 0 when the call completes it (20_memory.md R67). -/
def AccessCount (store : Bool) (s : State) (rD : RegIdx) (ea : Word) (n : Nat) : Prop :=
  match store with
  | false => s.busCount .read .half ea 0 = n
  | true => s.busCount .write .half ea (s.storeDatum rD) = n

/-- A completed load of `v`: rD holds it, nothing pends any more, and nothing else changed but RX_SOURCE, perhaps. -/
def LoadDone (rD : RegIdx) (v : Word) (s t : State) : Prop :=
  ReadsBack rD v s t ∧ SameButAccess [rD] s t ∧ SameMemory s t ∧ t.status = .normal ∧ t.ear = s.ear ∧ t.esr = s.esr ∧
    t.pend = none ∧ t.devices = s.devices

/-- A completed store: no general register changed, nothing pends any more, and nothing else changed but memory or the device
registers. -/
def StoreDone (s t : State) : Prop :=
  SameButAccess [] s t ∧ t.status = .normal ∧ t.ear = s.ear ∧ t.esr = s.esr ∧ t.pend = none ∧ t.rxBytes = s.rxBytes ∧
    t.rxPulled = s.rxPulled

/-- The half-word of a register value that the address selects (20_memory.md R61). -/
def halfAt (big : Bool) (ea v : Word) : Half :=
  if big = decide (ea.toNat % 4 = 0) then v.extractLsb' 16 16 else v.extractLsb' 0 16

/-- The register value with the addressed half-word replaced (20_memory.md R71). -/
def withHalfAt (big : Bool) (ea v : Word) (h : Half) : Word :=
  if big = decide (ea.toNat % 4 = 0) then h ++ v.extractLsb' 0 16 else v.extractLsb' 16 16 ++ h

/-- The device register a bus target names. -/
def State.registerOf (s : State) (r : RegRef) : Option DevReg := (s.devices[r.dev]?).bind (fun d => d.reg? r.name)

/-- Everything a device holds beside its registers is as before: the flags a timer has decoded, TXVALID, the request flag
(60_exceptions.md R241, R243, R258, R269). -/
def DeviceState.SameDecoded (d e : DeviceState) : Prop :=
  e.irq = d.irq ∧
  match d, e with
  | .timer t, .timer u => u.ch0.tcsr.flags = t.ch0.tcsr.flags ∧ u.ch1.tcsr.flags = t.ch1.tcsr.flags
  | .byteStream b, .byteStream c => c.txValid = b.txValid
  | .timer _, .byteStream _ | .byteStream _, .timer _ => False

/-! ### Fetch and decode -/

/-- The byte of a word that lies `k` bytes above the word's address: the most significant one first when the block is big-endian
(20_memory.md R61). -/
def wordByte (big : Bool) (k : Nat) (v : Word) : Byte := v.extractLsb' (8 * if big then 3 - k else k) 8

/-- `w` is what a fetch at `p` reads: the word whose four bytes the image holds there, if `p` is a multiple of 4 in the local-fast
or the bus-peripheral region, else `absent`; `absent` too if a byte is (20_memory.md R82; for a word with some bytes present log
entry 7). -/
def State.FetchReads (s : State) (p : Word) (w : Option Word) : Prop :=
  (p.toNat % 4 = 0 → regionOf s.cfg p ≠ .map →
    ∀ v, w = some v ↔ ∀ k < 4, s.mem.read (p.toNat + k) = some (wordByte s.cfg.bigEndian k v)) ∧
  (p.toNat % 4 ≠ 0 ∨ regionOf s.cfg p = .map ∨ (∃ k < 4, s.mem.read (p.toNat + k) = none) → w = none)

/-- `inst` is what decode builds of a fetched word: at the word's address, neither started nor prefixed, and, if it is an
instruction, with its latency in `lat` and in the counter, and with a conditional latency for BEQI and BLT only
(30_encoding.md R105, R110). -/
def DecodedFrom (c : Config) (f : FetchSlot) (inst : Inst) : Prop :=
  inst.ipc = f.addr ∧ inst.started = false ∧ inst.upper = none ∧
  (f.word = none → inst.kind = .unfetchable) ∧
  ∀ w, f.word = some w →
    (∀ e, decodeWord w = .error e → inst.kind = .illegal w) ∧
    ∀ i, decodeWord w = .ok i →
      inst.kind = .instr i ∧ inst.lat = latencyOf i.mnemonic c.lat ∧ inst.cnt = latencyOf i.mnemonic c.lat ∧
      inst.clat =
        if i.mnemonic = .beqi ∨ i.mnemonic = .blt then some (latencyOf i.mnemonic c.clat) else none

/-! ### Cycles -/

/-- A cycle runs, no reset is sampled and no interrupt is accepted: the execute slot is stepped. -/
def State.steps (s : State) : Prop := s.cfg.wf = true ∧ s.rst = false ∧ s.acceptsInterrupt = false

/-- This cycle performs the effect of `i`, the instruction of `inst` in the execute slot: not at EXIT_ADDR, its latency counter
resolved (40_engine.md R131). -/
def State.fires (s : State) (inst : Inst) (i : Instr) : Prop :=
  s.steps ∧ s.ex = some inst ∧ s.cfg.exitAddr ≠ some inst.ipc ∧ inst.kind = .instr i ∧ (s.begun inst).cnt ≤ 1

/-- The rest of the cycle behind the step of the execute slot: the controller acts on the status, the devices tick. -/
def State.finish (s : State) : Host.Outcome State Fault Refusal := andThen s.settle (fun t => .next t.endCycle)

/-- What the step of the execute slot left in `u` is what the cycle leaves in `t`: the controller and operand finalisation touch no
general register, none of EAR, ESR, FSR, BTR, UIMM, neither the image nor the pending access nor RX_SOURCE, and of MSR at most the
delay-slot bit, which they leave alone too when DS_CLEAR is `never` (10_state.md R41; 40_engine.md R138 to R141;
93_implementation_defined.md U5); the device registers have ticked once (40_engine.md R146). -/
def EffectKept (u t : State) : Prop :=
  t.gpr = u.gpr ∧ SameExceptionRegs u t ∧ t.uimm = u.uimm ∧ t.mem = u.mem ∧ t.pend = u.pend ∧ t.rxBytes = u.rxBytes ∧
    t.rxPulled = u.rxPulled ∧ t.cfg = u.cfg ∧ t.devices = u.devices.map (DeviceState.tick u.cfg) ∧
    t.msr &&& ~~~u.cfg.msrDs = u.msr &&& ~~~u.cfg.msrDs ∧ (u.cfg.dsClear = .never → t.msr = u.msr)

/-- Every CPU register, the image and the pending access are as before, the slots behind EX too; nothing retired. -/
def SameCpu (s t : State) : Prop :=
  t.gpr = s.gpr ∧ t.pc = s.pc ∧ t.msr = s.msr ∧ SameExceptionRegs s t ∧ SamePrefixState s t ∧ t.mem = s.mem ∧ t.pend = s.pend ∧
    t.de = s.de ∧ t.fe = s.fe ∧ t.retired = s.retired ∧ t.cfg = s.cfg

/-! ### The invariant -/

/-- "between ticks every `cnt` of an instruction instance is at least 1" (10_state.md R45). -/
def Inst.countersOk (inst : Inst) : Prop := 1 ≤ inst.cnt ∧ ∀ c, inst.clat = some c → 1 ≤ c

/-- Every counter that rests between ticks is at least 1 (10_state.md R45, 20_memory.md R67). -/
def State.countersOk (s : State) : Prop :=
  (∀ inst, s.de = some inst → inst.countersOk) ∧ (∀ inst, s.ex = some inst → inst.countersOk) ∧
    (∀ p, s.pend = some p → 1 ≤ p.cnt)

/-- The committed value of a TCSR shows its nine flags at their bits: what a load returns is what the timer acts on
(60_exceptions.md R243 to R246, R255). -/
def Tcsr.flagsShown (r : Tcsr) : Prop :=
  r.reg.committed.getLsbD mdtBit = r.flags.mdt ∧ r.reg.committed.getLsbD udtBit = r.flags.udt ∧
  r.reg.committed.getLsbD arhtBit = r.flags.arht ∧ r.reg.committed.getLsbD loadBit = r.flags.load ∧
  r.reg.committed.getLsbD enitBit = r.flags.enit ∧ r.reg.committed.getLsbD entBit = r.flags.ent ∧
  r.reg.committed.getLsbD tintBit = r.flags.tint ∧ r.reg.committed.getLsbD pwmaBit = r.flags.pwma ∧
  r.reg.committed.getLsbD enallBit = r.flags.enall

/-- Both control/status registers of a timer show their flags. -/
def DeviceState.flagsShown : DeviceState → Prop
  | .timer t => t.ch0.tcsr.flagsShown ∧ t.ch1.tcsr.flagsShown
  | .byteStream _ => True

/-- The device list has the variants the configuration names, in registration order (10_state.md R40, 20_memory.md R84). -/
def State.devicesMatch (s : State) : Prop :=
  s.devices.map DeviceState.variant = s.cfg.devices.map (fun d => d.variant)

/-- Every byte the image holds lies in the local-fast or the bus-peripheral region (20_memory.md R65, R69, R83). -/
def State.imageLoadable (s : State) : Prop := ∀ e ∈ s.mem, s.cfg.loadable (BitVec.ofNat 32 e.1) = true

/-- What every cycle keeps. -/
structure State.Inv (s : State) : Prop where
  /-- the image is in canonical form -/
  memory : s.mem.wf = true
  /-- the image lies in the regions that can hold it -/
  image : s.imageLoadable
  /-- latency counters rest at 1 or more -/
  counters : s.countersOk
  /-- the devices are those configured -/
  devices : s.devicesMatch
  /-- a timer's control registers show its flags -/
  flags : ∀ d ∈ s.devices, d.flagsShown
  /-- IRQ_AGG is "no larger than the number of devices" (10_state.md R40) -/
  aggregate : s.irqAgg ≤ s.devices.length

/-- "DE and FE are never empty behind a non-empty EX" (40_engine.md R149), nor FE behind a non-empty DE. -/
def State.noBubbles (s : State) : Prop := (s.ex.isSome → s.de.isSome) ∧ (s.de.isSome → s.fe.isSome)

/-! ### Soft steps -/

/-- The step answers a next state with a soft status (60_exceptions.md R221). -/
def softStep (s : State) : Prop := ∃ t, step s = .next t ∧ t.status.terminal = false

end Sys2Proof.Machine
end

