-- ==== Sys2Proof/Certificates/Slice0/Obligations.lean ====
section
/-! DEFINITION. The statements for the provers. Each docstring names the rules of spec/ it formalises. -/

open Sys2Proof Sys2Proof.Machine

/-! ### Encoding -/

/-- Decoding the word of an instruction, alone or at the head of a byte string, gives the instruction back, with every operand at every
value (30_encoding.md R100 to R105). Resting on the spec's own decisions D2 and what the spec marks as derived in R104 (log entry
23). -/
def Obligations.DecodeEncodeAgree : Prop :=
  ∀ i : Instr, decodeWord (encode i) = .ok i ∧
    ∀ rest, decodeBytes (bytesOfWord (encode i) ++ rest) = .ok (i, rest)

/-- A word that decodes is the word of the instruction it decodes to: no bit of it is dropped (30_encoding.md R101, R104). Resting on
the spec's own decisions D2 and what the spec marks as derived in R104 (log entry 23). -/
def Obligations.DecodedWordReencodes : Prop :=
  ∀ (w : Word) (i : Instr), decodeWord w = .ok i → encode i = w

/-- A word decodes to an instruction of a name exactly when it matches that name's row of the opcode map (30_encoding.md R104, R106).
Resting on the spec's own decisions D20 and what the spec marks as derived in R104 (log entry 23). -/
def Obligations.DecodeAcceptsExactlyTheMap : Prop :=
  ∀ (w : Word) (m : Mnemonic),
    (∃ i, decodeWord w = .ok i ∧ i.mnemonic = m) ↔ ∃ r ∈ opcodeMap, r.mnemonic = m ∧ r.matches w = true

/-- The words of vectors V30.1, V30.4, V30.5, V30.8, V30.10, V30.11, V30.14, V30.15, V30.19 decode as listed there. -/
def Obligations.SpecWordsDecode : Prop :=
  decodeWord 0x3063FFFF#32 = .ok (.addik 3#5 3#5 0xFFFF#16) ∧ decodeWord 0x9C453000#32 = .ok (.blt 5#5 6#5) ∧
    decodeWord 0xB9FC0008#32 = .ok (.bralid 15#5 0x0008#16) ∧ decodeWord 0xD4C51000#32 = .ok (.sh 6#5 5#5 2#5) ∧
    decodeWord 0x94608001#32 = .ok (.mfs 3#5 0x0001#14) ∧ decodeWord 0x94710006#32 = .ok (.msrclr 3#5 0x0006#15) ∧
    decodeWord 0x91270060#32 = .ok (.sext8 9#5 7#5) ∧ decodeWord 0x00000000#32 = .error .unknownOp ∧
    decodeWord 0xB0211234#32 = .error .immFieldsNotZero

/-! ### From the fetch to the effect -/

/-- When the word fetched into the execute slot's instance decodes to `i` and its latency is resolved, the step is `exec i` on the state
with the instance begun and its counter at 1, followed by the controller's action on the status and the end of the cycle
(40_engine.md R131, R137, R146). Resting on the spec's own decisions D7 (log entry 23). -/
def Obligations.StepRunsDecodedInstruction : Prop :=
  ∀ (s : State) (inst : Inst) (w : Word) (i : Instr),
    s.steps → s.ex = some inst → s.cfg.exitAddr ≠ some inst.ipc → inst.kind = kindOf (some w) → decodeWord w = .ok i →
    (s.begun inst).cnt ≤ 1 →
    step s = andThen (exec i { s with ex := some { s.begun inst with cnt := 1 } }) State.finish

/-- A fetch reads the image word at a multiple of 4 in the local-fast or the bus-peripheral region, and `absent` at any other address
and where a byte is absent (for a word with some bytes present that is log entry 7). Decode makes of the fetched word an unstarted
instance at its address, with the latency LAT of its instruction and, for BEQI and BLT only, its CLAT, the configured numbers or 1.
From empty slots with interrupts disabled, three cycles bring what is fetched at PC, decoded, into the execute slot, with the
decoding of the next word in DE and the word after it in FE, while the devices tick three times; nothing else of the CPU, the bus or
the configuration changes (20_memory.md R79, R82; 30_encoding.md R105, R110; 00_scope.md R7; 40_engine.md R133, R138, R146, R150).
Resting on the spec's own decisions D5, D6, D8, D35, D37 and what the spec marks as derived in R150 (log entry 23). -/
def Obligations.FetchedWordReachesExecute : Prop :=
  (∀ (s : State) (p : Word), s.cfg.wf = true → s.FetchReads p (s.fetch p)) ∧
  (∀ (c : Config) (f : FetchSlot), DecodedFrom c f (decodeSlot c f)) ∧
  (∀ (m : Mnemonic) (l : List (Mnemonic × Nat)), ((∀ e ∈ l, e.1 ≠ m) → latencyOf m l = 1) ∧
    ∀ n, (m, n) ∈ l → (∀ e ∈ l, e.1 = m → e.2 = n) → latencyOf m l = n) ∧
  ∀ s : State,
    s.cfg.wf = true → s.rst = false → s.msr &&& s.cfg.msrIe = 0 → s.ex = none → s.de = none → s.fe = none →
    s.immPend = false →
    ∃ t inst next, runCycles 3 s = .next t ∧ t.status = .normal ∧
      t.ex = some inst ∧ DecodedFrom s.cfg ⟨s.pc, s.fetch s.pc⟩ inst ∧
      t.de = some next ∧ DecodedFrom s.cfg ⟨s.pc + 4, s.fetch (s.pc + 4)⟩ next ∧
      t.fe = some ⟨s.pc + 8, s.fetch (s.pc + 8)⟩ ∧
      t.pc = s.pc + 12 ∧ t.cycle = s.cycle + 3 ∧ t.retired = s.retired ∧ t.gpr = s.gpr ∧ t.msr = s.msr ∧
      SameExceptionRegs s t ∧ SamePrefixState s t ∧ t.mem = s.mem ∧ t.pend = s.pend ∧ t.cfg = s.cfg ∧ t.dsArmed = s.dsArmed ∧
      t.rxBytes = s.rxBytes ∧ t.rxPulled = s.rxPulled ∧
      t.devices = ((s.devices.map (DeviceState.tick s.cfg)).map (DeviceState.tick s.cfg)).map (DeviceState.tick s.cfg)

/-- An instruction of latency L, the conditional one when its condition holds on the first step, stalls on its first L - 1 ticks, which
change nothing of the CPU but its counter, and fires on the L-th (40_engine.md R131, R132). Resting on the spec's own decisions D7,
D9 (log entry 23). -/
def Obligations.LatencyStallsThenFires : Prop :=
  ∀ (s : State) (inst : Inst) (i : Instr) (n : Nat),
    s.steps → s.ex = some inst → s.cfg.exitAddr ≠ some inst.ipc → inst.kind = .instr i → inst.started = false →
    (if s.branchCondition inst.kind then inst.clat.getD inst.cnt else inst.cnt) = n → 1 ≤ n →
    (∀ k, k + 1 < n → ∃ t, runCycles (k + 1) s = .next t ∧ t.status = .stall ∧ SameCpu s t ∧
      t.ex = some { inst with started := true, cnt := n - 1 - k }) ∧
    ∃ t, runCycles (n - 1) s = .next t ∧ SameCpu s t ∧
      step t = andThen (exec i { t with ex := some { inst with started := true, cnt := 1 } }) State.finish

/-! ### ADDIK, IMM and the assembled immediate -/

/-- ADDIK writes the wrapped sum of rA and the assembled immediate to rD and changes nothing else, no flag either (41_arith_imm.md R170,
R172; 10_state.md R21). Resting on the spec's own decisions D4 (log entry 23). -/
def Obligations.AddikWritesWrappedSum : Prop :=
  ∀ (rD rA : RegIdx) (imm16 : BitVec 16) (s : State),
    ∃ t, exec (.addik rD rA imm16) s = .next t ∧ WritesOnly rD (s.reg rA + s.imm32 imm16) s t ∧ t.msr = s.msr

/-- IMM puts its operand in the upper half of UIMM over a zero lower half, sets IMMPEND, and changes nothing else (41_arith_imm.md R171;
10_state.md R29). -/
def Obligations.ImmLoadsUpperImmediate : Prop :=
  ∀ (imm16 : BitVec 16) (s : State),
    ∃ t, exec (.imm imm16) s = .next t ∧ t.uimm.extractLsb' 16 16 = imm16 ∧ t.uimm.extractLsb' 0 16 = 0#16 ∧
      t.immPend = true ∧ t.status = .normal ∧ SameRegsExcept [] s t ∧ t.pc = s.pc ∧ t.msr = s.msr ∧ SameExceptionRegs s t ∧
      SameMemory s t ∧ SamePipeline s t ∧ SameBus s t ∧ SameSystem s t

/-- The assembled immediate is the IMM half-word over the raw operand when a prefix was taken, else the signed value of the operand
(30_encoding.md R103; 40_engine.md R142). Resting on the spec's own decisions D10 (log entry 23). -/
def Obligations.ImmediateIsAssembled : Prop :=
  ∀ (s : State) (inst : Inst) (imm16 : BitVec 16), s.ex = some inst →
    (∀ u, inst.upper = some u → (s.imm32 imm16).toNat = u.toNat * 65536 + imm16.toNat) ∧
    (inst.upper = none → (s.imm32 imm16).toInt = imm16.toInt)

/-- When an IMM fires, the immediate-consuming instruction behind it enters the execute slot in the same cycle with the IMM's half-word,
and IMMPEND is clear again; before any other instruction the model refuses (40_engine.md R142, R149; 93_implementation_defined.md
U1). Resting on the spec's own decisions D10 and what the spec marks as derived in R149 (log entry 23). -/
def Obligations.ImmPrefixJoinsNextInstruction : Prop :=
  ∀ (s : State) (inst next : Inst) (imm16 : BitVec 16),
    s.fires inst (.imm imm16) → s.de = some next →
    (next.kind.consumesImmediate = true → ∃ t, step s = .next t ∧ t.ex = some { next with upper := some imm16 } ∧
      t.immPend = false ∧ t.uimm = imm16 ++ 0#16 ∧ t.retired = s.retired + 1 ∧ t.status = .normal) ∧
    (next.kind.consumesImmediate = false → step s = .refused (.prefixWithoutConsumer next.ipc))

/-! ### Branches -/

/-- BEQI goes to its own address plus the assembled immediate when rA is zero, else falls through; nothing else changes (42_branch.md
R180, R183). -/
def Obligations.BeqiBranchesOnZero : Prop :=
  ∀ (rA : RegIdx) (imm16 : BitVec 16) (s : State) (inst : Inst), s.ex = some inst →
    ∃ t, exec (.beqi rA imm16) s = .next t ∧ SameButControl [] s t ∧ t.msr = s.msr ∧
      (if s.reg rA = 0 then t.pc = inst.ipc + s.imm32 imm16 ∧ t.status = .jump else t.pc = s.pc ∧ t.status = .normal)

/-- BLT goes to its own address plus rB when rA is negative as a signed number, else falls through; nothing else changes (42_branch.md
R181, R183; 41_arith_imm.md R172). -/
def Obligations.BltBranchesOnNegative : Prop :=
  ∀ (rA rB : RegIdx) (s : State) (inst : Inst), s.ex = some inst →
    ∃ t, exec (.blt rA rB) s = .next t ∧ SameButControl [] s t ∧ t.msr = s.msr ∧
      (if (s.reg rA).toInt < 0 then t.pc = inst.ipc + s.reg rB ∧ t.status = .jump else t.pc = s.pc ∧ t.status = .normal)

/-- BRALID links its own address in rD, sets the delay-slot bit of MSR and no other, and goes to the assembled immediate (42_branch.md
R182; 10_state.md R23). Resting on the spec's own decisions D16 (log entry 23). -/
def Obligations.BralidLinksAndJumps : Prop :=
  ∀ (rD : RegIdx) (imm16 : BitVec 16) (s : State) (inst : Inst), s.ex = some inst →
    ∃ t, exec (.bralid rD imm16) s = .next t ∧ ReadsBack rD inst.ipc s t ∧ SameButControl [rD] s t ∧
      t.pc = s.imm32 imm16 ∧ t.status = .jump ∧
      ∀ b, t.msr.getLsbD b = (s.msr.getLsbD b || s.cfg.msrDs.getLsbD b)

/-! ### Loads and stores -/

/-- LHU and LHUI, completing on the image, zero-extend the two bytes at the address into rD, the first byte the more significant when
the block is big-endian (43_load_store.md R190, R191, R192; 20_memory.md R61, R68). Resting on the spec's own decisions D3, D14, D15
(log entry 23). -/
def Obligations.LoadReadsImageHalf : Prop :=
  ∀ (i : Instr) (s : State) (rD : RegIdx) (ea : Word) (b0 b1 : Byte),
    AccessOf false i s rD ea → AccessCount false s rD ea 0 → ea.toNat % 2 = 0 → targetOf s.cfg ea = .image →
    s.mem.read ea.toNat = some b0 → s.mem.read (ea.toNat + 1) = some b1 →
    ∃ t, exec i s = .next t ∧
      LoadDone rD (if s.cfg.bigEndian then (b0 ++ b1).setWidth 32 else (b1 ++ b0).setWidth 32) s t ∧
      t.rxBytes = s.rxBytes ∧ t.rxPulled = s.rxPulled

/-- LHU and LHUI, completing on a device register other than RX, zero-extend the addressed half-word of its committed value, of the
constant BS_STATUS for STATUS, into rD (43_load_store.md R190; 20_memory.md R70; 60_exceptions.md R240, R267). Resting on the spec's
own decisions D12, D14, D15, D30 (log entry 23). -/
def Obligations.LoadReadsDeviceRegister : Prop :=
  ∀ (i : Instr) (s : State) (rD : RegIdx) (ea : Word) (r : RegRef) (reg : DevReg),
    AccessOf false i s rD ea → AccessCount false s rD ea 0 → ea.toNat % 2 = 0 → targetOf s.cfg ea = .register r →
    s.registerOf r = some reg → r.name ≠ .rx →
    ∃ t, exec i s = .next t ∧
      LoadDone rD
        ((halfAt s.cfg.bigEndian ea (if r.name = .status then s.cfg.bsStatus else reg.committed)).setWidth 32) s t ∧
      t.rxBytes = s.rxBytes ∧ t.rxPulled = s.rxPulled

/-- LHU and LHUI, completing on RX, consume one byte and zero-extend the addressed half-word of it into rD: the first byte the outside
world has lined up, which is then gone from the line and nothing else pulled, or, when it has lined up none, some byte, and the
count of bytes pulled beyond the line grows by one (43_load_store.md R190; 60_exceptions.md R268; the line and the count are the
model's, log entry 6). Resting on the spec's own decisions D14, D15, D30 (log entry 23). -/
def Obligations.LoadOfRxConsumesOneByte : Prop :=
  ∀ (i : Instr) (s : State) (rD : RegIdx) (ea : Word) (r : RegRef) (reg : DevReg),
    AccessOf false i s rD ea → AccessCount false s rD ea 0 → ea.toNat % 2 = 0 → targetOf s.cfg ea = .register r →
    s.registerOf r = some reg → r.name = .rx →
    (∀ b rest, s.rxBytes = b :: rest → ∃ t, exec i s = .next t ∧
      LoadDone rD ((halfAt s.cfg.bigEndian ea (b.setWidth 32)).setWidth 32) s t ∧ t.rxBytes = rest ∧
      t.rxPulled = s.rxPulled) ∧
    (s.rxBytes = [] → ∃ (b : Byte) (t : State), exec i s = .next t ∧
      LoadDone rD ((halfAt s.cfg.bigEndian ea (b.setWidth 32)).setWidth 32) s t ∧ t.rxBytes = [] ∧
      t.rxPulled = s.rxPulled + 1)

/-- SH and SHI, completing on the image, store the low half of rD in the two bytes at the address, the more significant byte first when
the block is big-endian, and change no other byte (43_load_store.md R190, R193, R194; 20_memory.md R61, R69). Resting on the spec's
own decisions D3, D14, D15 (log entry 23). -/
def Obligations.StoreWritesImageHalf : Prop :=
  ∀ (i : Instr) (s : State) (rD : RegIdx) (ea : Word),
    AccessOf true i s rD ea → AccessCount true s rD ea 0 → ea.toNat % 2 = 0 → targetOf s.cfg ea = .image →
    ∃ t, exec i s = .next t ∧ StoreDone s t ∧ t.devices = s.devices ∧
      t.mem.read ea.toNat = some (if s.cfg.bigEndian then (s.reg rD).extractLsb' 8 8 else (s.reg rD).extractLsb' 0 8) ∧
      t.mem.read (ea.toNat + 1) = some (if s.cfg.bigEndian then (s.reg rD).extractLsb' 0 8 else (s.reg rD).extractLsb' 8 8) ∧
      SameMemoryOutsideHalf ea s t

/-- SH and SHI, completing on a device register, stage its committed value with the addressed half-word replaced and leave what it
committed, every decoded flag of every device, its request flag and TXVALID; on STATUS and RX they change nothing; no byte of memory
changes (43_load_store.md R190, R193, R194; 20_memory.md R71; 60_exceptions.md R241, R267, R268). Resting on the spec's own
decisions D12, D14, D15, D30 (log entry 23). -/
def Obligations.StoreStagesDeviceRegister : Prop :=
  ∀ (i : Instr) (s : State) (rD : RegIdx) (ea : Word) (r : RegRef) (reg : DevReg),
    AccessOf true i s rD ea → AccessCount true s rD ea 0 → ea.toNat % 2 = 0 → targetOf s.cfg ea = .register r →
    s.registerOf r = some reg →
    ∃ t, exec i s = .next t ∧ StoreDone s t ∧ SameMemory s t ∧
      (if r.name = .status ∨ r.name = .rx then t.devices = s.devices
       else
        t.registerOf r =
          some ⟨reg.committed, withHalfAt s.cfg.bigEndian ea reg.committed ((s.reg rD).extractLsb' 0 16), true⟩ ∧
        List.Forall₂ DeviceState.SameDecoded s.devices t.devices ∧
        ∀ q : RegRef, q.dev ≠ r.dev ∨ q.name ≠ r.name → t.registerOf q = s.registerOf q)

/-- While the bus counts, a half-word load or store answers MEM_ACCESS, or MEM_MAPPED with EAR at the address in the mapped fallback,
with the request pending and no other effect (43_load_store.md R190; 20_memory.md R62, R67; 60_exceptions.md R227). Resting on the
spec's own decisions D8, D14, D15 (log entry 23). -/
def Obligations.AccessWaitsWithoutEffect : Prop :=
  ∀ (store : Bool) (i : Instr) (s : State) (rD : RegIdx) (ea : Word) (n : Nat),
    AccessOf store i s rD ea → AccessCount store s rD ea n → 0 < n → ea.toNat % 2 = 0 →
    ∃ t, exec i s = .next t ∧ SameButAccess [] s t ∧ SameMemory s t ∧ t.esr = s.esr ∧ t.devices = s.devices ∧
      t.rxBytes = s.rxBytes ∧ t.rxPulled = s.rxPulled ∧
      t.pend = some ⟨if store then .write else .read, .half, ea, if store then s.storeDatum rD else 0, n⟩ ∧
      (if regionOf s.cfg ea = .map then t.status = .memMapped ∧ t.ear = ea else t.status = .memAccess ∧ t.ear = s.ear)

/-- A half-word load or store at an odd address answers MEM_UNALIGNED, whatever is mapped or pending there, with the address in EAR and
cause, register and direction in ESR, and nothing else changes (43_load_store.md R190; 60_exceptions.md R223; 10_state.md R24, R25).
Resting on the spec's own decisions D14, D15 (log entry 23). -/
def Obligations.OddAddressRaisesUnaligned : Prop :=
  ∀ (store : Bool) (i : Instr) (s : State) (rD : RegIdx) (ea : Word),
    AccessOf store i s rD ea → ea.toNat % 2 = 1 →
    ∃ t, exec i s = .next t ∧ t.status = .memUnaligned ∧ t.ear = ea ∧
      t.esr.extractLsb' 0 5 = s.cfg.esrEcUnaligned ∧ t.esr.extractLsb' 5 5 = rD ∧ t.esr.getLsbD 10 = store ∧
      t.esr.extractLsb' 11 21 = 0#21 ∧ SameButAccess [] s t ∧ SameMemory s t ∧ SameBus s t

/-- A half-word access that completes in the mapped fallback with no register, and a load that completes on a half-word with an absent
byte, stop the model with the fault of that name (20_memory.md R72, R73; 93_implementation_defined.md U2, U3). Resting on the spec's
own decisions D13 (log entry 23). -/
def Obligations.AccessFaultsByName : Prop :=
  ∀ (store : Bool) (i : Instr) (s : State) (rD : RegIdx) (ea : Word),
    AccessOf store i s rD ea → AccessCount store s rD ea 0 → ea.toNat % 2 = 0 →
    (targetOf s.cfg ea = .unmapped → exec i s = .fault (.unmappedAccess ea)) ∧
    (targetOf s.cfg ea = .image → store = false → s.mem.read ea.toNat = none ∨ s.mem.read (ea.toNat + 1) = none →
      exec i s = .fault (.uninitialisedRead ea))

/-! ### MFS, MSRCLR -/

/-- MFS copies the selected special register to rD and changes nothing else: its own address, MSR, EAR, ESR, FSR, BTR, or a PVR
(44_special.md R200; 10_state.md R24 to R28). Resting on the spec's own decisions D15, D17, D40 (log entry 23). -/
def Obligations.MfsReadsSpecialRegister : Prop :=
  ∀ (rD : RegIdx) (sel : BitVec 14) (v : Word) (s : State) (inst : Inst), s.ex = some inst →
    (sel, v) ∈ [(0x0000#14, inst.ipc), (0x0001#14, s.msr), (0x0003#14, s.ear), (0x0005#14, s.esr), (0x0007#14, s.fsr),
      (0x000B#14, s.btr)] ∨ (∃ n, sel.toNat = 0x2000 + n ∧ s.cfg.pvr[n]? = some v) →
    ∃ t, exec (.mfs rD sel) s = .next t ∧ WritesOnly rD v s t ∧ t.msr = s.msr

/-- MFS with a selector that names no register answers ILLEGAL and changes nothing (44_special.md R200; 60_exceptions.md R224). Resting
on the spec's own decisions D17, D20 (log entry 23). -/
def Obligations.MfsUnknownSelectorIsIllegal : Prop :=
  ∀ (rD : RegIdx) (sel : BitVec 14) (s : State),
    sel ∉ [0x0000#14, 0x0001#14, 0x0003#14, 0x0005#14, 0x0007#14, 0x000B#14] →
    sel.toNat < 0x2000 ∨ 0x2000 + s.cfg.pvr.length ≤ sel.toNat →
    exec (.mfs rD sel) s = .next { s with status := .illegal }

/-- MSRCLR copies the old MSR to rD and clears exactly the masked bits below bit 15 that are not the carry; nothing else changes
(44_special.md R201; 10_state.md R23). Resting on the spec's own decisions D16, D18 (log entry 23). -/
def Obligations.MsrclrClearsMaskedBits : Prop :=
  ∀ (rD : RegIdx) (imm15 : BitVec 15) (s : State),
    ∃ t, exec (.msrclr rD imm15) s = .next t ∧ WritesOnly rD s.msr s t ∧
      ∀ b, t.msr.getLsbD b = (s.msr.getLsbD b && !(imm15.getLsbD b && !s.cfg.msrC.getLsbD b))

/-! ### PCMPBF, PCMPEQ, SEXT8 -/

/-- PCMPBF writes the 1-based index, from the most significant byte, of the first byte in which rA and rB agree, or 0; nothing else
changes (45_compare_extend.md R210). -/
def Obligations.PcmpbfFindsFirstEqualByte : Prop :=
  ∀ (rD rA rB : RegIdx) (s : State),
    ∃ t v, exec (.pcmpbf rD rA rB) s = .next t ∧ WritesOnly rD v s t ∧ t.msr = s.msr ∧ v.toNat ≤ 4 ∧
      ∀ k, 1 ≤ k → k ≤ 4 →
        ((v.toNat = 0 ∨ k < v.toNat) → (s.reg rA).extractLsb' (32 - 8 * k) 8 ≠ (s.reg rB).extractLsb' (32 - 8 * k) 8) ∧
        (v.toNat = k → (s.reg rA).extractLsb' (32 - 8 * k) 8 = (s.reg rB).extractLsb' (32 - 8 * k) 8)

/-- PCMPEQ writes 1 when the words are equal, else 0; nothing else changes (45_compare_extend.md R211). -/
def Obligations.PcmpeqWritesEquality : Prop :=
  ∀ (rD rA rB : RegIdx) (s : State),
    ∃ t, exec (.pcmpeq rD rA rB) s = .next t ∧ WritesOnly rD (if s.reg rA = s.reg rB then 1 else 0) s t ∧ t.msr = s.msr

/-- SEXT8 writes a word whose low byte is rA's and whose upper 24 bits are bit 7 of it; nothing else changes (45_compare_extend.md
R212). -/
def Obligations.Sext8ReplicatesBitSeven : Prop :=
  ∀ (rD rA : RegIdx) (s : State),
    ∃ t v, exec (.sext8 rD rA) s = .next t ∧ WritesOnly rD v s t ∧ t.msr = s.msr ∧
      ∀ b, b < 32 → v.getLsbD b = (s.reg rA).getLsbD (if b < 8 then b else 7)

/-! ### The Memory Bus and the image -/

/-- A bus call answers UNALIGNED exactly when the address is no multiple of the width, and then nothing changes (20_memory.md R62, R63).
Resting on the spec's own decisions D11 (log entry 23). -/
def Obligations.BusRefusesMisaligned : Prop :=
  ∀ (s : State) (k : BusKind) (n : Width) (a d : Word),
    (a.toNat % n.bytes ≠ 0 → s.bus k n a d = .next (.unaligned, s)) ∧
    (∀ t, s.bus k n a d = .next (.unaligned, t) → a.toNat % n.bytes ≠ 0)

/-- Of the calls of an access of latency L, the first L - 1 answer that they wait, ACCESS or in the mapped fallback MAPPED, and the L-th
reads or writes, once (20_memory.md R62, R66, R67). Resting on the spec's own decisions D8, D11 (log entry 23). -/
def Obligations.BusCompletesOnLastCall : Prop :=
  ∀ (s : State) (k : BusKind) (n : Width) (a d : Word) (j : Nat),
    s.pend = none → a.toNat % n.bytes = 0 → j < accessLatency s.cfg k a →
    let left := accessLatency s.cfg k a - j
    let at' : State := if j = 0 then s else { s with pend := some ⟨k, n, a, d, left⟩ }
    (1 < left → at'.bus k n a d =
      .next (if regionOf s.cfg a = .map then .mapped else .access, { s with pend := some ⟨k, n, a, d, left - 1⟩ })) ∧
    (left = 1 → k = .read → at'.bus k n a d = andThen (s.memRead n a) (fun r => .next (.ready r.1, r.2))) ∧
    (left = 1 → k = .write → at'.bus k n a d = andThen (s.memWrite n a d) (fun t => .next (.ready 0, t)))

/-- Region precedence, what an address stands for, and whose latency an access has; and, in a well-formed configuration, which register
an address stands for: the one wired at its word address in some device's list, with that device's place and latencies (20_memory.md
R64, R65, R66, R84; 10_state.md R35). Resting on the spec's own decisions D11 (log entry 23). -/
def Obligations.RegionDecidesTargetAndLatency : Prop :=
  ∀ (c : Config) (a : Word) (k : BusKind),
    (c.lmb.base.toNat ≤ a.toNat ∧ a.toNat ≤ c.lmb.last.toNat →
      regionOf c a = .lmb ∧ targetOf c a = .image ∧ accessLatency c k a = latencyFor c.lmbLat k) ∧
    (¬ (c.lmb.base.toNat ≤ a.toNat ∧ a.toNat ≤ c.lmb.last.toNat) →
      (∀ b, c.opb = some b → b.base.toNat ≤ a.toNat ∧ a.toNat ≤ b.last.toNat →
        regionOf c a = .opb ∧
        (∀ r, regMap c a = some r → targetOf c a = .register r ∧ accessLatency c k a = latencyFor r.lat k) ∧
        (regMap c a = none → targetOf c a = .image ∧ accessLatency c k a = latencyFor c.opbLat k)) ∧
      ((∀ b, c.opb = some b → ¬ (b.base.toNat ≤ a.toNat ∧ a.toNat ≤ b.last.toNat)) →
        regionOf c a = .map ∧
        (∀ r, regMap c a = some r → targetOf c a = .register r ∧ accessLatency c k a = latencyFor r.lat k) ∧
        (regMap c a = none → targetOf c a = .unmapped ∧ accessLatency c k a = latencyFor c.mapLat k))) ∧
    (c.wf = true → ∀ r : RegRef, regMap c a = some r ↔
      ∃ d, c.devices[r.dev]? = some d ∧ (r.name, BitVec.ofNat 32 (a.toNat / 4 * 4)) ∈ d.regs ∧ r.lat = d.lat)

/-- A load of the width and address just stored gives the stored bits; a load that overlaps it in no byte gives what it gave
(20_memory.md R68, R69, R76). Resting on what the spec marks as derived in R76 (log entry 23). -/
def Obligations.ImageLoadAfterStore : Prop :=
  ∀ (m : Memory) (big : Bool) (n : Width) (a d : Word),
    (m.store big n a d).load big n a = some (d &&& n.mask) ∧
    ∀ (n' : Width) (b : Word), b.toNat + n'.bytes ≤ a.toNat ∨ a.toNat + n.bytes ≤ b.toNat →
      (m.store big n a d).load big n' b = m.load big n' b

/-- An aligned load inside a word of the image gives the lane of that word the byte order says (20_memory.md R61, R68). Resting on the
spec's own decisions D3 (log entry 23). -/
def Obligations.ImageLanesOfAWord : Prop :=
  ∀ (m : Memory) (big : Bool) (a b v : Word) (n : Width),
    a.toNat % 4 = 0 → m.load big .word a = some v → b.toNat % n.bytes = 0 → a.toNat ≤ b.toNat → b.toNat < a.toNat + 4 →
    m.load big n b = some (lane big n b v)

/-! ### Device registers, the timer, the byte stream -/

/-- `put` stages the value and marks the register dirty; what it committed, every other register, the timer's flags, the request flag
and TXVALID stay; a second `put` wins; STATUS and RX discard it. `update` of a plain register commits the staged value of a dirty
one, which is then clean, and does nothing to a clean one; `get` shows the staged value only then (60_exceptions.md R240 to R242,
R247, R267, R268). Resting on the spec's own decisions D30 (log entry 23). -/
def Obligations.PutStagesUpdateCommits : Prop :=
  (∀ (d : DeviceState) (n : RegName) (v : Word) (reg : DevReg), d.reg? n = some reg → n ≠ .status → n ≠ .rx →
    (d.putReg n v).reg? n = some ⟨reg.committed, v, true⟩ ∧ (∀ q, q ≠ n → (d.putReg n v).reg? q = d.reg? q) ∧
      (d.putReg n v).irq = d.irq ∧ ∀ w, (d.putReg n v).putReg n w = d.putReg n w) ∧
  (∀ (d : DeviceState) (v : Word), d.putReg .rx v = d ∧ d.putReg .status v = d) ∧
  (∀ (d : DeviceState) (n : RegName) (v : Word), d.SameDecoded (d.putReg n v)) ∧
  (∀ (t : Timer) (n : RegName) (v : Word), (t.putReg n v).ch0.tcsr.flags = t.ch0.tcsr.flags ∧
    (t.putReg n v).ch1.tcsr.flags = t.ch1.tcsr.flags) ∧
  (∀ (r : DevReg) (v : Word), (r.put v).get = r.get ∧ (r.put v).update.get = v ∧ (r.put v).update.dirty = false ∧
    (r.put v).update.update = (r.put v).update ∧ (r.dirty = false → r.update = r))

/-- A commit of a TCSR decodes the nine flags, clears the interrupt-pending flag where a 1 was written to it and else keeps it, shows
that flag in bit 8 and the enable in bit 7, and stores every other bit as written (60_exceptions.md R243, R244). Resting on the
spec's own decisions D25 (log entry 23). -/
def Obligations.TcsrCommitDecodesFlags : Prop :=
  ∀ (r q : Tcsr) (v : Word),
    let u := ((⟨r.reg.put v, r.flags⟩ : Tcsr).update q).1
    u.reg.dirty = false ∧
    u.flags = ⟨v.getLsbD 0, v.getLsbD 1, v.getLsbD 4, v.getLsbD 5, v.getLsbD 6, v.getLsbD 7 || v.getLsbD 10,
      !v.getLsbD 8 && r.flags.tint, v.getLsbD 9, v.getLsbD 10⟩ ∧
    (∀ b, b ≠ 7 → b ≠ 8 → u.reg.committed.getLsbD b = v.getLsbD b) ∧
    u.reg.committed.getLsbD 7 = (v.getLsbD 7 || v.getLsbD 10) ∧
    u.reg.committed.getLsbD 8 = (!v.getLsbD 8 && r.flags.tint)

/-- A TCSR that commits a set ENALL sets the enable and global-enable flags and bits of the other TCSR in the same `update`, without
touching what that one has staged; without ENALL the other TCSR is untouched (60_exceptions.md R245, R246). Resting on the spec's
own decisions D25, D28 (log entry 23). -/
def Obligations.GlobalEnableReachesSibling : Prop :=
  ∀ (r q : Tcsr) (v : Word),
    let p := ((⟨r.reg.put v, r.flags⟩ : Tcsr).update q).2
    (v.getLsbD 10 = true → p.flags = { q.flags with ent := true, enall := true } ∧
      p.reg.pending = q.reg.pending ∧ p.reg.dirty = q.reg.dirty ∧ p.reg.committed.getLsbD 7 = true ∧
      p.reg.committed.getLsbD 10 = true ∧ ∀ b, b ≠ 7 → b ≠ 10 → p.reg.committed.getLsbD b = q.reg.committed.getLsbD b) ∧
    (v.getLsbD 10 = false → p = q)

/-- What the counter of either timer reads after a tick: reload or hold at the boundary 0, else one count on from the counter or from
the load register, the load register while only LOAD is set, and what software staged only while the timer does not write it
(60_exceptions.md R256, R257, R261). Resting on the spec's own decisions D27, D29 and what the spec marks as derived in R261 (log
entry 23). -/
def Obligations.TimerTickMovesCounter : Prop :=
  ∀ (c : Config) (t : Timer) (ch ch' : TimerChannel),
    (ch, ch') ∈ [(t.ch0, (t.tick c).ch0), (t.ch1, (t.tick c).ch1)] →
    let start := if ch.tcsr.flags.load then ch.tlr.committed else ch.tcr.committed
    let delta : Word := if ch.tcsr.flags.udt then 0xFFFFFFFF#32 else 1#32
    let counts := ¬ (t.ch0.tcsr.flags.pwma = true ∧ t.ch1.tcsr.flags.pwma = true) ∧ ch.tcsr.flags.mdt ≠ c.tmrGenerateCode
    (counts → ch.tcsr.flags.ent = true → start = 0 →
      ch'.tcr.committed = if ch.tcsr.flags.arht then ch.tlr.committed + delta else 0) ∧
    (counts → ch.tcsr.flags.ent = true → start ≠ 0 → ch'.tcr.committed = start + delta) ∧
    (counts → ch.tcsr.flags.ent = false → ch.tcsr.flags.load = true → ch'.tcr.committed = ch.tlr.committed) ∧
    (¬ counts ∨ (ch.tcsr.flags.ent = false ∧ ch.tcsr.flags.load = false) →
      ch'.tcr.committed = if ch.tcr.dirty then ch.tcr.pending else ch.tcr.committed)

/-- The timer's request after a tick is the OR over both timers of enable-interrupt and interrupt-pending, with a pending that this
tick's count to 0 sets and without what this tick commits. The tick leaves no register dirty. A load register commits what was
staged in it. A control register that software did not write keeps its value and flags, but that an arrival at 0 shows in the
pending flag and in bit 8; one that it wrote decodes the written value against the pending flag as that arrival left it. An ENALL
committed by control register 0 reaches register 1 unless register 1 commits too, one committed by register 1 reaches register 0
always (60_exceptions.md R242 to R246, R257, R258, R259). Resting on the spec's own decisions D25, D27, D28 (log entry 23). -/
def Obligations.TimerRequestFollowsPending : Prop :=
  ∀ (c : Config) (t : Timer),
    let arrives : TimerChannel → Bool := fun ch =>
      let start := if ch.tcsr.flags.load then ch.tlr.committed else ch.tcr.committed
      !(t.ch0.tcsr.flags.pwma && t.ch1.tcsr.flags.pwma) && (ch.tcsr.flags.mdt != c.tmrGenerateCode) && ch.tcsr.flags.ent &&
        (start != 0) && (start + (if ch.tcsr.flags.udt then 0xFFFFFFFF#32 else 1#32) == 0)
    let pending : TimerChannel → Bool := fun ch => ch.tcsr.flags.tint || arrives ch
    -- the flags, and a bit of the committed value, before the other register's ENALL reaches this one
    let ownFlags : TimerChannel → TcsrFlags := fun ch =>
      let w := ch.tcsr.reg.pending
      if ch.tcsr.reg.dirty then
        ⟨w.getLsbD 0, w.getLsbD 1, w.getLsbD 4, w.getLsbD 5, w.getLsbD 6, w.getLsbD 7 || w.getLsbD 10,
          !w.getLsbD 8 && pending ch, w.getLsbD 9, w.getLsbD 10⟩
      else { ch.tcsr.flags with tint := pending ch }
    let ownBit : TimerChannel → Nat → Bool := fun ch b =>
      let w := ch.tcsr.reg.pending
      if ch.tcsr.reg.dirty then
        if b = 8 then !w.getLsbD 8 && pending ch else if b = 7 then w.getLsbD 7 || w.getLsbD 10 else w.getLsbD b
      else ch.tcsr.reg.committed.getLsbD b || (b == 8 && arrives ch)
    let reached0 := t.ch1.tcsr.reg.dirty && t.ch1.tcsr.reg.pending.getLsbD 10
    let reached1 := !t.ch1.tcsr.reg.dirty && (t.ch0.tcsr.reg.dirty && t.ch0.tcsr.reg.pending.getLsbD 10)
    (t.tick c).irq = ((t.ch0.tcsr.flags.enit && pending t.ch0) || (t.ch1.tcsr.flags.enit && pending t.ch1)) ∧
    ∀ (ch ch' : TimerChannel) (reached : Bool),
      (ch, ch', reached) ∈ [(t.ch0, (t.tick c).ch0, reached0), (t.ch1, (t.tick c).ch1, reached1)] →
      ch'.tlr.committed = (if ch.tlr.dirty then ch.tlr.pending else ch.tlr.committed) ∧
      ch'.tlr.dirty = false ∧ ch'.tcr.dirty = false ∧ ch'.tcsr.reg.dirty = false ∧
      ch'.tcsr.flags = (if reached then { ownFlags ch with ent := true, enall := true } else ownFlags ch) ∧
      ∀ b, ch'.tcsr.reg.committed.getLsbD b = (ownBit ch b || (reached && (b == 7 || b == 10)))

/-- A byte stored to TX is not emitted in the cycle of the store, is emitted in the next cycle's tick, and, with no further store, in no
later one (60_exceptions.md R269, R270). Resting on the spec's own decisions D30 (log entry 23). -/
def Obligations.TransmitOnceNextCycle : Prop :=
  ∀ (b : ByteStream) (v : Word),
    (b.putReg .tx v).emitted = b.emitted ∧ (b.putReg .tx v).tick.tx.get = v ∧
      (b.putReg .tx v).tick.emitted = some (v.extractLsb' 0 8) ∧
      ∀ n : Nat, (ByteStream.tick^[n + 2] (b.putReg .tx v)).emitted = none

/-! ### The cycle -/

/-- A cycle without reset runs the CPU, then ticks every device once whatever the status, sums the requests they then hold, emits their
bytes, counts CYCLE by 1 and leaves the CPU's own state and the configuration as the CPU left them. That the bytes of several byte-
stream devices are kept as a list in registration order is the model's choice, log entry 24 (40_engine.md R146, R147;
60_exceptions.md R250, R251, R270). Resting on the spec's own decisions D30, D31 (log entry 23). -/
def Obligations.CycleTicksEveryDevice : Prop :=
  ∀ s t : State, s.rst = false → step s = .next t →
    ∃ u, s.cpuTick = .next u ∧ t.devices = u.devices.map (DeviceState.tick s.cfg) ∧
      t.irqAgg = (t.devices.filter DeviceState.irq).length ∧ (t.irqOut = true ↔ ∃ d ∈ t.devices, d.irq = true) ∧
      t.txOut = u.devices.filterMap DeviceState.emitted ∧ t.txSink = s.txSink ++ t.txOut ∧ t.cycle = s.cycle + 1 ∧
      t.cfg = s.cfg ∧ t.status = u.status ∧ SameCpu u t ∧ t.ex = u.ex

/-- Retirement: one instruction when the stepped one ends its stay with NORMAL or JUMP, none for an empty slot, a stall, a wait, a
terminal status or an interrupt entry (40_engine.md R143). Resting on the spec's own decisions D21 (log entry 23). -/
def Obligations.RetiredCountsCompletions : Prop :=
  ∀ s t : State, s.rst = false → step s = .next t →
    t.retired = s.retired + (if s.acceptsInterrupt = false ∧ s.ex.isSome = true ∧ (t.status = .normal ∨ t.status = .jump)
      then 1 else 0)

/-- On NORMAL the slots move on: DE takes the decoding of FE, FE the word fetched at PC, the image word there as the instruction left
the image (that a word with some bytes present is absent is log entry 7), PC counts by 4, and EX holds the instruction that was in
DE as it stood there, with its latencies and counter, and with a prefix only where it takes an immediate and IMMPEND was set, which
is then clear; without an IMM firing IMMPEND is not set. Nothing else that the step of the execute slot left changes but RETIRED,
and the delay-slot bit where DS_CLEAR is not `never` (40_engine.md R138, R142; 20_memory.md R79, R82; 10_state.md R41). Resting on
the spec's own decisions D5, D6, D10, D37 (log entry 23). -/
def Obligations.NormalAdvancesThePipeline : Prop :=
  ∀ s t : State, s.rst = false → s.acceptsInterrupt = false → step s = .next t → t.status = .normal →
    ∃ u, s.stepEx = .next u ∧ EffectKept u t ∧ t.immPend = (u.immPend && s.de.isNone) ∧
      (s.immPend = false → (∀ inst imm16, s.ex = some inst → inst.kind ≠ .instr (.imm imm16)) → u.immPend = false) ∧
      t.de = s.fe.map (decodeSlot s.cfg) ∧ t.fe = some ⟨s.pc, t.fetch s.pc⟩ ∧
      t.FetchReads s.pc (t.fetch s.pc) ∧ t.pc = s.pc + 4 ∧
      (s.de = none → t.ex = none) ∧
      (∀ d, s.de = some d → ∃ e, t.ex = some e ∧ e.kind = d.kind ∧ e.ipc = d.ipc ∧ e.cnt = d.cnt ∧ e.started = d.started ∧
        e.lat = d.lat ∧ e.clat = d.clat ∧
        e.upper =
          (if d.kind.consumesImmediate then (if u.immPend then some (u.uimm.extractLsb' 16 16) else none) else d.upper))

/-- On JUMP an executed instruction has retired, all slots are empty and nothing has been fetched; PC is the target the instruction
wrote, and nothing else that it left changes but RETIRED, and the delay-slot bit where DS_CLEAR is not `never`; the next cycle
fetches at the target, what a fetch reads being the first clause of `FetchedWordReachesExecute` (40_engine.md R139). -/
def Obligations.JumpDiscardsFetched : Prop :=
  ∀ s t : State, s.rst = false → s.acceptsInterrupt = false → step s = .next t → t.status = .jump →
    s.ex.isSome = true ∧ t.retired = s.retired + 1 ∧ t.ex = none ∧ t.de = none ∧ t.fe = none ∧
    (∃ u, s.stepEx = .next u ∧ EffectKept u t ∧ t.pc = u.pc ∧ t.immPend = u.immPend) ∧
    ∀ u, t.rst = false → t.acceptsInterrupt = false → step t = .next u →
      u.fe = some ⟨t.pc, t.fetch t.pc⟩

/-- On every other status the pipeline holds: EX keeps its instruction, to be stepped again in the next cycle, DE, FE and PC are
unchanged, nothing retires, and all that the step of the execute slot left stays as it left it, MSR and IMMPEND too (40_engine.md
R140, R141; 60_exceptions.md R222). Resting on the spec's own decisions D20 (log entry 23). -/
def Obligations.OtherStatusHoldsThePipeline : Prop :=
  ∀ s t : State, s.rst = false → step s = .next t → t.status ≠ .normal → t.status ≠ .jump →
    t.de = s.de ∧ t.fe = s.fe ∧ t.pc = s.pc ∧ t.retired = s.retired ∧
    (∃ u, s.stepEx = .next u ∧ EffectKept u t ∧ t.msr = u.msr ∧ t.dsArmed = u.dsArmed ∧ t.immPend = u.immPend ∧
      t.ex = u.ex) ∧
    (t.rst = false → t.acceptsInterrupt = false → step t = andThen t.stepEx State.finish) ∧
    ∃ e e', s.ex = some e ∧ t.ex = some e' ∧ e'.kind = e.kind ∧ e'.ipc = e.ipc ∧ e'.lat = e.lat ∧ e'.clat = e.clat ∧
      e'.upper = e.upper

/-- A terminal status is not latched: the next cycle returns the same status again from the same held instruction, with the same
register writes, and changes only the devices' side and CYCLE (40_engine.md R141; 70_reset_and_hazards.md R325). Resting on the
spec's own decisions D20 (log entry 23). -/
def Obligations.TerminalStatusRepeats : Prop :=
  ∀ s t : State, s.rst = false → s.acceptsInterrupt = false → step s = .next t → t.status.terminal = true →
    t.rst = false → t.acceptsInterrupt = false →
    ∃ u, step t = .next u ∧ u.status = t.status ∧ SameCpu t u ∧ u.ex = t.ex ∧ u.cycle = t.cycle + 1

/-- What the step of the execute slot does before any instruction's effect. Decode makes UNFETCHABLE of `absent`, and ILLEGAL of a word
exactly when it matches no row of the opcode map. An empty slot is NORMAL and retires nothing, the exit address is STOP whatever
stands there, an absent word faults, a word that matches no row is ILLEGAL (30_encoding.md R105, R106; 40_engine.md R131, R133 to
R136; 60_exceptions.md R228). Resting on the spec's own decisions D5, D7, D20 and what the spec marks as derived in R228 (log entry
23). -/
def Obligations.SlotWithoutEffect : Prop :=
  (∀ (c : Config) (f : FetchSlot), (f.word = none → (decodeSlot c f).kind = .unfetchable) ∧
    ∀ w, f.word = some w → ((decodeSlot c f).kind = .illegal w ↔ ∀ r ∈ opcodeMap, r.matches w = false)) ∧
  ∀ s : State,
    (s.ex = none → s.stepEx = .next { s with status := .normal }) ∧
    ∀ inst, s.ex = some inst →
      (s.cfg.exitAddr = some inst.ipc → s.stepEx = .next { s with status := .stop }) ∧
      (s.cfg.exitAddr ≠ some inst.ipc →
        (inst.kind = .unfetchable → s.stepEx = .fault (.noInstruction inst.ipc)) ∧
        (∀ w, inst.kind = .illegal w → s.stepEx = .next { s with status := .illegal }) ∧
        ∀ f : FetchSlot, inst.kind = (decodeSlot s.cfg f).kind →
          (f.word = none → s.stepEx = .fault (.noInstruction inst.ipc)) ∧
          ∀ w, f.word = some w → (∀ r ∈ opcodeMap, r.matches w = false) → s.stepEx = .next { s with status := .illegal })

/-- The status codes: five soft, four terminal, the terminal ones numbered from 5; a run loop goes on after a soft one and stops at a
terminal one; that the loop has a bound on its cycles is the model's choice, log entry 20, and that with `rst` high it serves the
reset edge and counts that edge against the bound is the model's choice, log entry 29; under a well-formed configuration a reset is
valid in any state, and the status it leaves is soft, which is the model's choice, log entry 3 (60_exceptions.md R220, R221;
70_reset_and_hazards.md R304, R324). Resting on the spec's own decisions D19 (log entry 23). -/
def Obligations.TerminalStatusesEndRuns : Prop :=
  (∀ st : Status, (st.terminal = true ↔ st ∈ [.memUnaligned, .illegal, .breakpoint, .stop]) ∧
    (st.terminal = false ↔ st ∈ [.stall, .jump, .normal, .memAccess, .memMapped]) ∧
    (st.terminal = true ↔ 5 ≤ st.code.toNat)) ∧
  (∀ (s t : State) (n : Nat), step s = .next t →
    (t.status.terminal = true → runToTerminal (n + 1) s = .next t) ∧
    (t.status.terminal = false → runToTerminal (n + 1) s = runToTerminal n t)) ∧
  (∀ s : State, s.cfg.wf = true → s.rst = true → ∃ t, step s = .next t ∧ t.status.terminal = false)

/-- No step yields BREAKPOINT, which is in the terminal class and at which the pipeline would hold (60_exceptions.md R225). -/
def Obligations.BreakpointIsNeverProduced : Prop :=
  (∀ s t : State, step s = .next t → t.status ≠ .breakpoint) ∧ Status.breakpoint.terminal = true ∧
    ∀ s : State, s.status = .breakpoint → s.settle = .next s

/-! ### Interrupts -/

/-- An interrupt is accepted exactly when one is requested, MSR[IE] is set, no IMM pends and the execute slot is empty or holds an
instruction neither begun nor prefixed; otherwise the slot is stepped (60_exceptions.md R230; 40_engine.md R137). Resting on the
spec's own decisions D22 (log entry 23). -/
def Obligations.InterruptAcceptance : Prop :=
  ∀ s : State,
    (s.acceptsInterrupt = true ↔ s.irqAgg ≠ 0 ∧ s.msr &&& s.cfg.msrIe ≠ 0 ∧ s.immPend = false ∧
      ∀ inst, s.ex = some inst → inst.started = false ∧ inst.upper = none) ∧
    (s.cfg.wf = true → s.rst = false → s.acceptsInterrupt = false → step s = andThen s.stepEx State.finish)

/-- An accepted interrupt links the address of the oldest instruction not executed, clears MSR[IE] and no other bit, empties the slots,
goes to the vector with status JUMP, and has no other effect: nothing retires, memory, the pending access, RX_SOURCE, the delay-slot
mark, the configuration and the other registers are as before, and the devices are those before it, ticked once as in every cycle
(60_exceptions.md R231; 40_engine.md R146). Resting on the spec's own decisions D22 (log entry 23). -/
def Obligations.InterruptEntry : Prop :=
  ∀ s : State, s.cfg.wf = true → s.rst = false → s.acceptsInterrupt = true →
    ∃ t, step s = .next t ∧
      ReadsBack s.cfg.intLink
        ((s.ex.map Inst.ipc <|> s.de.map Inst.ipc <|> s.fe.map FetchSlot.addr).getD s.pc) s t ∧
      SameRegsExcept [s.cfg.intLink] s t ∧ (∀ b, t.msr.getLsbD b = (s.msr.getLsbD b && !s.cfg.msrIe.getLsbD b)) ∧
      t.ex = none ∧ t.de = none ∧ t.fe = none ∧ t.pc = s.cfg.intVector ∧ t.status = .jump ∧ t.retired = s.retired ∧
      SameExceptionRegs s t ∧ SamePrefixState s t ∧ SameMemory s t ∧ t.pend = s.pend ∧ t.dsArmed = s.dsArmed ∧
      t.cfg = s.cfg ∧ t.rst = false ∧ t.rxBytes = s.rxBytes ∧ t.rxPulled = s.rxPulled ∧
      t.devices = s.devices.map (DeviceState.tick s.cfg) ∧ t.cycle = s.cycle + 1

/-! ### Who writes what -/

/-- MSR, in a cycle without reset, changes only by interrupt entry, which clears the enable bit alone, by a firing MSRCLR, by a firing
BRALID, and, with DS_CLEAR = next_retire, at a retirement: a BRALID arms the mark, the next other retiring instruction clears the
delay-slot bit after its own effect and the mark (this order is the model's, log entry 13). So no cycle changes the carry bit, and
none sets the interrupt-enable bit (10_state.md R23, R42; 44_special.md R200, R201; 60_exceptions.md R231, R233;
93_implementation_defined.md U5). Resting on the spec's own decisions D16, D17, D18, D22, D23 (log entry 23). -/
def Obligations.CarryKeptEnableNeverSet : Prop :=
  ∀ s t : State, s.rst = false → step s = .next t →
    let msrOf : Word → Word × Bool := fun m =>
      match s.cfg.dsClear, s.ex with
      | .nextRetire, some inst =>
        if t.status ≠ .normal ∧ t.status ≠ .jump then (m, s.dsArmed)
        else if inst.kind.isBralid then (m, true)
        else if s.dsArmed then (m &&& ~~~s.cfg.msrDs, false)
        else (m, false)
      | _, _ => (m, s.dsArmed)
    (s.acceptsInterrupt = true → t.msr = s.msr &&& ~~~s.cfg.msrIe ∧ t.dsArmed = s.dsArmed) ∧
    (s.acceptsInterrupt = false →
      (t.msr, t.dsArmed) = msrOf s.msr ∨
      (∃ inst rD imm15, s.ex = some inst ∧ inst.kind = .instr (.msrclr rD imm15) ∧ t.status = .normal ∧
        (t.msr, t.dsArmed) = msrOf (s.msr &&& ~~~(imm15.setWidth 32 &&& ~~~s.cfg.msrC))) ∨
      (∃ inst rD imm16, s.ex = some inst ∧ inst.kind = .instr (.bralid rD imm16) ∧ t.status = .jump ∧
        (t.msr, t.dsArmed) = msrOf (s.msr ||| s.cfg.msrDs))) ∧
    t.msr &&& s.cfg.msrC = s.msr &&& s.cfg.msrC ∧ (s.msr &&& s.cfg.msrIe = 0 → t.msr &&& s.cfg.msrIe = 0)

/-- A cycle without reset changes EAR only to the address of a half-word access that answered MEM_UNALIGNED or MEM_MAPPED, ESR only on
MEM_UNALIGNED, and FSR and BTR never (10_state.md R24 to R27). Resting on the spec's own decisions D15, D40 (log entry 23). -/
def Obligations.ExceptionRegisterWriters : Prop :=
  ∀ s t : State, s.rst = false → step s = .next t →
    (t.ear ≠ s.ear → (t.status = .memUnaligned ∨ t.status = .memMapped) ∧
      ∃ inst i store rD ea, s.ex = some inst ∧ inst.kind = .instr i ∧ AccessOf store i s rD ea ∧ t.ear = ea) ∧
    (t.esr ≠ s.esr → t.status = .memUnaligned) ∧ t.fsr = s.fsr ∧ t.btr = s.btr

/-- A cycle changes memory only by a store of the instruction in the execute slot that completes, and then only the two bytes at its
address (10_state.md R41; 20_memory.md R69, R76). Resting on what the spec marks as derived in R76 (log entry 23). -/
def Obligations.OnlyStoresChangeMemory : Prop :=
  ∀ s t : State, step s = .next t → t.mem ≠ s.mem →
    t.status = .normal ∧ ∃ inst i rD ea, s.ex = some inst ∧ inst.kind = .instr i ∧ AccessOf true i s rD ea ∧
      ea.toNat % 2 = 0 ∧ SameMemoryOutsideHalf ea s t

/-! ### Reset and configuration -/

/-- The reset operation leaves the table of 10_state.md R43: the CPU and the bus as named, every device register and flag zero, STATUS
its constant, and keeps the image, the configuration and the history of emitted bytes (70_reset_and_hazards.md R300 to R304;
60_exceptions.md R260, R271). Resting on the spec's own decisions D32 (log entry 23). -/
def Obligations.ResetOperation : Prop :=
  ∀ s : State, s.cfg.wf = true → s.rst = true →
    ∃ t, step s = .next t ∧ (∀ r, t.reg r = 0) ∧ t.pc = s.cfg.resetPc ∧ t.msr = s.cfg.msrReset ∧ t.ear = 0 ∧ t.esr = 0 ∧
      t.fsr = 0 ∧ t.btr = 0 ∧ t.uimm = 0 ∧ t.immPend = false ∧ t.retired = 0 ∧ t.fe = none ∧ t.de = none ∧ t.ex = none ∧
      t.pend = none ∧ t.irqAgg = 0 ∧ t.cycle = 0 ∧ t.mem = s.mem ∧ t.cfg = s.cfg ∧ t.txSink = s.txSink ∧ t.txOut = [] ∧
      t.devices.map DeviceState.variant = s.cfg.devices.map (fun d => d.variant) ∧
      ∀ d ∈ t.devices, d.irq = false ∧ d.emitted = none ∧
        (∀ n reg, d.reg? n = some reg → reg = ⟨if n = .status then s.cfg.bsStatus else 0, 0, false⟩) ∧
        ∀ tm, d = .timer tm → tm.ch0.tcsr.flags = TcsrFlags.zero ∧ tm.ch1.tcsr.flags = TcsrFlags.zero

/-- A configuration is well-formed exactly when it meets the wiring contract as spelled out here: ILEN is 32 (the model's refusal of
another, log entry 28), every latency is at least 1, the three MSR masks are three distinct single bits, the region bounds are
aligned, each device lists exactly its variant's registers, and the register addresses are aligned, outside the local-fast region
and all different. A launch runs exactly when the configuration is well-formed, the image is in canonical form (log entry 15), every
byte of it lies in the local-fast or the bus-peripheral region, and EXIT_ADDR is present where it is needed; it then starts at the
power-on state of that configuration and image; otherwise it is refused, and no cycle runs with an ill-formed configuration, log
entry 14 (00_scope.md R7; 10_state.md R23; 20_memory.md R83, R84; 70_reset_and_hazards.md R306, R307). Resting on the spec's own
decisions D8, D11, D16 (log entry 23). -/
def Obligations.IllFormedLaunchRefused : Prop :=
  ∀ (c : Config) (image : Memory) (exitNeeded : Bool),
    let loadable := image.wf = true ∧
      (∀ e ∈ image, e.1 < 2 ^ 32 ∧ ∃ b ∈ c.lmb :: c.opb.toList, b.base.toNat ≤ e.1 ∧ e.1 ≤ b.last.toNat) ∧
      (exitNeeded = true → c.exitAddr.isSome = true)
    (c.wf = true ↔
      c.ilen = 32 ∧
      (∀ l ∈ [c.lmbLat, c.opbLat, c.mapLat] ++ c.devices.map DeviceCfg.lat, 1 ≤ l.rd ∧ 1 ≤ l.wr) ∧
      (∀ e ∈ c.lat ++ c.clat, 1 ≤ e.2) ∧
      (∃ i j k : Fin 32, i ≠ j ∧ i ≠ k ∧ j ≠ k ∧
        c.msrIe = 1#32 <<< i.val ∧ c.msrC = 1#32 <<< j.val ∧ c.msrDs = 1#32 <<< k.val) ∧
      (∀ b ∈ c.lmb :: c.opb.toList, b.base.toNat % 4 = 0 ∧ b.last.toNat % 4 = 3) ∧
      (∀ d ∈ c.devices, (d.regs.map Prod.fst).Perm d.variant.declared) ∧
      (∀ a ∈ c.registerAddrs, a.toNat % 4 = 0 ∧ ¬ (c.lmb.base.toNat ≤ a.toNat ∧ a.toNat ≤ c.lmb.last.toNat)) ∧
      c.registerAddrs.Nodup) ∧
    (c.wf = true → ∀ m, 1 ≤ latencyOf m c.lat ∧ 1 ≤ latencyOf m c.clat) ∧
    (c.wf = true → loadable → launch c image exitNeeded = .next (State.powerOn c image)) ∧
    (c.wf = true → ¬ loadable → launch c image exitNeeded = .refused .illFormedLaunch) ∧
    (c.wf = false → launch c image exitNeeded = .refused .illFormedConfiguration ∧
      ∀ s : State, s.cfg = c → step s = .refused .illFormedConfiguration)

/-- The state after reset, under the model's default configuration (log entries 2 and 3), has the invariant (10_state.md R43, R45).
Resting on the spec's own decisions D32 (log entry 23). -/
def Obligations.ResetMeetsInvariant : Prop := State.reset.Inv ∧ State.reset.noBubbles ∧ State.reset.immPend = false

/-- Every step keeps the invariant: canonical memory that lies in the loadable regions, counters at 1 or more, the configured devices,
control registers that show the timer's flags, and an aggregate no larger than the number of devices (10_state.md R36, R40, R45;
20_memory.md R67; 60_exceptions.md R243 to R246). Resting on the spec's own decisions D8, D25, D28, D33 (log entry 23). -/
def Obligations.StepKeepsInvariant : Prop := ∀ s t : State, s.Inv → step s = .next t → t.Inv

/-- Every step keeps the slots without bubbles behind the execute slot and leaves no prefix pending between cycles (40_engine.md R149;
60_exceptions.md R230). Resting on the spec's own decisions D22 and what the spec marks as derived in R149 (log entry 23). -/
def Obligations.StepKeepsSlotsFilled : Prop :=
  ∀ s t : State, s.noBubbles → s.immPend = false → step s = .next t → t.noBubbles ∧ t.immPend = false

/-- With a well-formed configuration and the invariant, a step answers a next state unless one of the cases the spec leaves without a
result arises: the load in the execute slot completes on a half-word of the image with an absent byte; the load or store there
completes in the mapped fallback with no register; the slot holds an absent word; or the decode slot holds what takes no immediate
behind an IMM, pending or in the execute slot (93_implementation_defined.md U1 to U4). -/
def Obligations.StepStopsOnlyWhereOpen : Prop :=
  ∀ s : State, s.Inv → s.cfg.wf = true →
    (∃ t, step s = .next t) ∨
    (∃ inst i rD ea, s.ex = some inst ∧ inst.kind = .instr i ∧ AccessOf false i s rD ea ∧ AccessCount false s rD ea 0 ∧
      ea.toNat % 2 = 0 ∧ targetOf s.cfg ea = .image ∧ (s.mem.read ea.toNat = none ∨ s.mem.read (ea.toNat + 1) = none) ∧
      step s = .fault (.uninitialisedRead ea)) ∨
    (∃ inst i store rD ea, s.ex = some inst ∧ inst.kind = .instr i ∧ AccessOf store i s rD ea ∧ AccessCount store s rD ea 0 ∧
      ea.toNat % 2 = 0 ∧ targetOf s.cfg ea = .unmapped ∧ step s = .fault (.unmappedAccess ea)) ∨
    (∃ inst, s.ex = some inst ∧ inst.kind = .unfetchable ∧ step s = .fault (.noInstruction inst.ipc)) ∨
    (∃ d, s.de = some d ∧ d.kind.consumesImmediate = false ∧
      (s.immPend = true ∨ ∃ inst imm16, s.ex = some inst ∧ inst.kind = .instr (.imm imm16)) ∧
      step s = .refused (.prefixWithoutConsumer d.ipc))

/-! ### Run control -/

/-- Running until N instructions have retired never retires more than N, and with a soft status before the bound it has retired exactly
N; that the loop has a bound on its cycles is the model's choice, log entry 20, and that N = 0 runs no cycle is the model's choice,
log entry 30 (70_reset_and_hazards.md R321). -/
def Obligations.RunRetiredMeetsCount : Prop :=
  ∀ (n bound : Nat) (s t : State), s.rst = false → runRetired n bound s = .next t →
    t.retired ≤ s.retired + n ∧ t.cycle ≤ s.cycle + bound ∧
    (t.status.terminal = false → t.cycle < s.cycle + bound → t.retired = s.retired + n)
end

