-- ==== Sys2Proof/Laws/Memory.lean ====
section
/-! SUPPORT. The laws of the byte image: read after write, everything else unchanged, and every operation keeps the canonical
form (20_memory.md R68, R69). -/

namespace Sys2Proof.Machine

@[simp] theorem Memory.read_nil (a : Nat) : Memory.read [] a = none := rfl

theorem Memory.read_cons (k : Nat) (v : Byte) (rest : Memory) (a : Nat) :
    Memory.read ((k, v) :: rest) a = if k = a then some v else Memory.read rest a := rfl

/-- What a read finds after a write, at the same place and at any other. -/
theorem Memory.read_write (m : Memory) (a : Nat) (b : Byte) (x : Nat) :
    (Memory.write m a b).read x = if a = x then some b else m.read x := by
  induction m with
  | nil => simp [Memory.write, Memory.read]
  | cons e rest ih =>
    obtain ⟨k, v⟩ := e
    simp only [Memory.write]
    split
    · simp [Memory.read]
    · split
      · subst_vars; by_cases h : k = x <;> simp [Memory.read, h]
      · simp only [Memory.read, ih]
        by_cases hk : k = x
        · have : a ≠ x := by omega
          simp [hk, this]
        · simp [hk]

@[simp] theorem Memory.read_write_self (m : Memory) (a : Nat) (b : Byte) : (Memory.write m a b).read a = some b := by
  simp [Memory.read_write]

theorem Memory.read_write_ne (m : Memory) {a x : Nat} (b : Byte) (h : x ≠ a) : (Memory.write m a b).read x = m.read x := by
  simp [Memory.read_write, Ne.symm h]

/-- The keys of a written image: the address and the keys it had. -/
theorem Memory.mem_write {m : Memory} {a : Nat} {b : Byte} {e : Host.Cell} (h : e ∈ Memory.write m a b) :
    e.1 = a ∨ e ∈ m := by
  induction m with
  | nil => simp [Memory.write] at h; simp [h]
  | cons c rest ih =>
    obtain ⟨k, v⟩ := c
    simp only [Memory.write] at h
    split at h
    · rcases List.mem_cons.mp h with h | h
      · simp [h]
      · exact .inr h
    · split at h
      · rcases List.mem_cons.mp h with h | h
        · simp [h]
        · exact .inr (List.mem_cons_of_mem _ h)
      · rcases List.mem_cons.mp h with h | h
        · exact .inr (by simp [h])
        · rcases ih h with h | h
          · exact .inl h
          · exact .inr (List.mem_cons_of_mem _ h)

/-- The canonical form of a longer image: the head below everything behind it. -/
theorem Memory.wf_cons {k : Nat} {v : Byte} {rest : Memory} :
    Memory.wf ((k, v) :: rest) = true ↔ k < 2 ^ 32 ∧ (∀ e ∈ rest, k < e.1) ∧ Memory.wf rest = true := by
  induction rest generalizing k v with
  | nil => simp [Memory.wf]
  | cons e rest ih =>
    obtain ⟨k', v'⟩ := e
    simp only [Memory.wf, Bool.and_eq_true, decide_eq_true_eq, List.mem_cons, forall_eq_or_imp]
    rw [ih]
    constructor
    · rintro ⟨h1, h2, h3, h4⟩
      exact ⟨by omega, ⟨h1, fun e he => lt_trans h1 (h3 e he)⟩, h2, h3, h4⟩
    · rintro ⟨-, ⟨h1, -⟩, h2, h3, h4⟩
      exact ⟨h1, h2, h3, h4⟩

/-- A write keeps the canonical form. -/
theorem Memory.write_wf {m : Memory} {a : Nat} (b : Byte) (ha : a < 2 ^ 32) (h : m.wf = true) :
    (Memory.write m a b).wf = true := by
  induction m with
  | nil => simpa [Memory.write, Memory.wf] using ha
  | cons e rest ih =>
    obtain ⟨k, v⟩ := e
    obtain ⟨hk, hlt, hr⟩ := Memory.wf_cons.mp h
    simp only [Memory.write]
    split
    · rename_i hak
      refine Memory.wf_cons.mpr ⟨ha, ?_, h⟩
      intro e he
      rcases List.mem_cons.mp he with rfl | he
      · exact hak
      · exact lt_trans hak (hlt e he)
    · split
      · subst_vars; exact Memory.wf_cons.mpr ⟨hk, hlt, hr⟩
      · rename_i h1 h2
        refine Memory.wf_cons.mpr ⟨hk, ?_, ih hr⟩
        intro e he
        rcases Memory.mem_write he with he | he
        · omega
        · exact hlt e he

/-- Spreading a datum changes no byte outside the addresses. -/
theorem Memory.read_spread_of_not_mem (xs : List Nat) (m : Memory) (d : Word) {x : Nat} (h : x ∉ xs) :
    (m.spread xs d).read x = m.read x := by
  induction xs generalizing m with
  | nil => rfl
  | cons y ys ih =>
    simp only [List.mem_cons, not_or] at h
    simp only [Memory.spread]
    rw [ih _ h.2, Memory.read_write_ne _ _ h.1]

/-- Spreading a datum keeps the canonical form. -/
theorem Memory.spread_wf (xs : List Nat) (m : Memory) (d : Word) (hx : ∀ x ∈ xs, x < 2 ^ 32) (h : m.wf = true) :
    (m.spread xs d).wf = true := by
  induction xs generalizing m with
  | nil => exact h
  | cons y ys ih =>
    exact ih _ (fun x hxm => hx x (List.mem_cons_of_mem _ hxm)) (Memory.write_wf _ (hx y List.mem_cons_self) h)

/-- The keys of a spread image: the addresses and the keys it had. -/
theorem Memory.mem_spread {xs : List Nat} {m : Memory} {d : Word} {e : Host.Cell} (h : e ∈ m.spread xs d) :
    e.1 ∈ xs ∨ e ∈ m := by
  induction xs generalizing m with
  | nil => exact .inr h
  | cons y ys ih =>
    rcases ih h with h | h
    · exact .inl (List.mem_cons_of_mem _ h)
    · rcases Memory.mem_write h with h | h
      · exact .inl (h ▸ List.mem_cons_self)
      · exact .inr h

/-- The addresses of an access are the first and the bytes behind it, whatever the byte order. -/
theorem mem_laneAddrs {big : Bool} {n : Width} {a x : Nat} : x ∈ laneAddrs big n a ↔ a ≤ x ∧ x < a + n.bytes := by
  cases big <;> cases n <;> simp [laneAddrs, Width.bytes] <;> omega

/-- A store changes only the addressed lane (20_memory.md R69). -/
theorem Memory.read_store_outside (m : Memory) (big : Bool) (n : Width) (a d : Word) {x : Nat}
    (h : x < a.toNat ∨ a.toNat + n.bytes ≤ x) : (m.store big n a d).read x = m.read x :=
  Memory.read_spread_of_not_mem _ _ _ (by rw [mem_laneAddrs]; omega)

/-- A store at an aligned address keeps the canonical form. -/
theorem Memory.store_wf (m : Memory) (big : Bool) (n : Width) (a d : Word) (ha : a.toNat % n.bytes = 0)
    (h : m.wf = true) : (m.store big n a d).wf = true := by
  refine Memory.spread_wf _ _ _ (fun x hx => ?_) h
  rw [mem_laneAddrs] at hx
  have hlt := a.isLt
  cases n <;> simp only [Width.bytes] at hx ha <;> omega

/-- A word joined of four bytes, most significant first, and the bytes of a word. -/
theorem joined_iff (a b c d : Byte) (v : Word) :
    ((((((((0 : Word) <<< 8 ||| a.setWidth 32) <<< 8) ||| b.setWidth 32) <<< 8) ||| c.setWidth 32) <<< 8) ||| d.setWidth 32) = v ↔
      a = v.extractLsb' 24 8 ∧ b = v.extractLsb' 16 8 ∧ c = v.extractLsb' 8 8 ∧ d = v.extractLsb' 0 8 := by
  constructor
  · rintro rfl
    refine ⟨?_, ?_, ?_, ?_⟩ <;> (refine BitVec.eq_of_getLsbD_eq fun i hi => ?_; interval_cases i <;> simp)
  · rintro ⟨rfl, rfl, rfl, rfl⟩
    refine BitVec.eq_of_getLsbD_eq fun i hi => ?_
    interval_cases i <;> simp

/-- Everything a load of a word can answer: the word whose four bytes the image holds there (20_memory.md R61, R68). -/
theorem Memory.load_word_iff (m : Memory) (big : Bool) (p v : Word) :
    m.load big .word p = some v ↔ ∀ k < 4, m.read (p.toNat + k) = some (wordByte big k v) := by
  have h4 : ∀ P : Nat → Prop, (∀ k < 4, P k) ↔ (P 0 ∧ P 1 ∧ P 2 ∧ P 3) := fun P =>
    ⟨fun h => ⟨h 0 (by omega), h 1 (by omega), h 2 (by omega), h 3 (by omega)⟩, fun ⟨a, b, c, d⟩ k hk => by
      interval_cases k <;> assumption⟩
  rw [h4]
  cases h0 : m.read p.toNat <;> cases h1 : m.read (p.toNat + 1) <;> cases h2 : m.read (p.toNat + 2) <;>
    cases h3 : m.read (p.toNat + 3) <;>
    cases big <;>
      simp only [Memory.load, laneAddrs, Memory.join, h0, h1, h2, h3, wordByte, Option.some.injEq, reduceCtorEq, false_and,
        and_false, if_true, if_false, Bool.false_eq_true, joined_iff, Nat.mul_zero, Nat.mul_one, Nat.reduceMul, Nat.reduceSub] <;>
      tauto

end Sys2Proof.Machine
end

