-- ==== Sys2Proof/Laws/State.lean ====
section
/-! SUPPORT. One lemma per field per named update of the state, true by rfl, so that no later proof unfolds a record update. -/

namespace Sys2Proof.Machine

/-! ### `writeReg` -/

@[simp] theorem State.writeReg_cfg (s : State) (r : RegIdx) (v : Word) : (s.writeReg r v).cfg = s.cfg := rfl
@[simp] theorem State.writeReg_pc (s : State) (r : RegIdx) (v : Word) : (s.writeReg r v).pc = s.pc := rfl
@[simp] theorem State.writeReg_msr (s : State) (r : RegIdx) (v : Word) : (s.writeReg r v).msr = s.msr := rfl
@[simp] theorem State.writeReg_ear (s : State) (r : RegIdx) (v : Word) : (s.writeReg r v).ear = s.ear := rfl
@[simp] theorem State.writeReg_esr (s : State) (r : RegIdx) (v : Word) : (s.writeReg r v).esr = s.esr := rfl
@[simp] theorem State.writeReg_fsr (s : State) (r : RegIdx) (v : Word) : (s.writeReg r v).fsr = s.fsr := rfl
@[simp] theorem State.writeReg_btr (s : State) (r : RegIdx) (v : Word) : (s.writeReg r v).btr = s.btr := rfl
@[simp] theorem State.writeReg_uimm (s : State) (r : RegIdx) (v : Word) : (s.writeReg r v).uimm = s.uimm := rfl
@[simp] theorem State.writeReg_immPend (s : State) (r : RegIdx) (v : Word) : (s.writeReg r v).immPend = s.immPend := rfl
@[simp] theorem State.writeReg_retired (s : State) (r : RegIdx) (v : Word) : (s.writeReg r v).retired = s.retired := rfl
@[simp] theorem State.writeReg_fe (s : State) (r : RegIdx) (v : Word) : (s.writeReg r v).fe = s.fe := rfl
@[simp] theorem State.writeReg_de (s : State) (r : RegIdx) (v : Word) : (s.writeReg r v).de = s.de := rfl
@[simp] theorem State.writeReg_ex (s : State) (r : RegIdx) (v : Word) : (s.writeReg r v).ex = s.ex := rfl
@[simp] theorem State.writeReg_mem (s : State) (r : RegIdx) (v : Word) : (s.writeReg r v).mem = s.mem := rfl
@[simp] theorem State.writeReg_pend (s : State) (r : RegIdx) (v : Word) : (s.writeReg r v).pend = s.pend := rfl
@[simp] theorem State.writeReg_devices (s : State) (r : RegIdx) (v : Word) : (s.writeReg r v).devices = s.devices := rfl
@[simp] theorem State.writeReg_irqAgg (s : State) (r : RegIdx) (v : Word) : (s.writeReg r v).irqAgg = s.irqAgg := rfl
@[simp] theorem State.writeReg_cycle (s : State) (r : RegIdx) (v : Word) : (s.writeReg r v).cycle = s.cycle := rfl
@[simp] theorem State.writeReg_status (s : State) (r : RegIdx) (v : Word) : (s.writeReg r v).status = s.status := rfl
@[simp] theorem State.writeReg_rst (s : State) (r : RegIdx) (v : Word) : (s.writeReg r v).rst = s.rst := rfl
@[simp] theorem State.writeReg_rxBytes (s : State) (r : RegIdx) (v : Word) : (s.writeReg r v).rxBytes = s.rxBytes := rfl
@[simp] theorem State.writeReg_rxPulled (s : State) (r : RegIdx) (v : Word) : (s.writeReg r v).rxPulled = s.rxPulled := rfl
@[simp] theorem State.writeReg_txOut (s : State) (r : RegIdx) (v : Word) : (s.writeReg r v).txOut = s.txOut := rfl
@[simp] theorem State.writeReg_txSink (s : State) (r : RegIdx) (v : Word) : (s.writeReg r v).txSink = s.txSink := rfl
@[simp] theorem State.writeReg_dsArmed (s : State) (r : RegIdx) (v : Word) : (s.writeReg r v).dsArmed = s.dsArmed := rfl

/-! ### `withStatus` -/

@[simp] theorem State.withStatus_cfg (s : State) (st : Status) : (s.withStatus st).cfg = s.cfg := rfl
@[simp] theorem State.withStatus_gpr (s : State) (st : Status) : (s.withStatus st).gpr = s.gpr := rfl
@[simp] theorem State.withStatus_pc (s : State) (st : Status) : (s.withStatus st).pc = s.pc := rfl
@[simp] theorem State.withStatus_msr (s : State) (st : Status) : (s.withStatus st).msr = s.msr := rfl
@[simp] theorem State.withStatus_ear (s : State) (st : Status) : (s.withStatus st).ear = s.ear := rfl
@[simp] theorem State.withStatus_esr (s : State) (st : Status) : (s.withStatus st).esr = s.esr := rfl
@[simp] theorem State.withStatus_fsr (s : State) (st : Status) : (s.withStatus st).fsr = s.fsr := rfl
@[simp] theorem State.withStatus_btr (s : State) (st : Status) : (s.withStatus st).btr = s.btr := rfl
@[simp] theorem State.withStatus_uimm (s : State) (st : Status) : (s.withStatus st).uimm = s.uimm := rfl
@[simp] theorem State.withStatus_immPend (s : State) (st : Status) : (s.withStatus st).immPend = s.immPend := rfl
@[simp] theorem State.withStatus_retired (s : State) (st : Status) : (s.withStatus st).retired = s.retired := rfl
@[simp] theorem State.withStatus_fe (s : State) (st : Status) : (s.withStatus st).fe = s.fe := rfl
@[simp] theorem State.withStatus_de (s : State) (st : Status) : (s.withStatus st).de = s.de := rfl
@[simp] theorem State.withStatus_ex (s : State) (st : Status) : (s.withStatus st).ex = s.ex := rfl
@[simp] theorem State.withStatus_mem (s : State) (st : Status) : (s.withStatus st).mem = s.mem := rfl
@[simp] theorem State.withStatus_pend (s : State) (st : Status) : (s.withStatus st).pend = s.pend := rfl
@[simp] theorem State.withStatus_devices (s : State) (st : Status) : (s.withStatus st).devices = s.devices := rfl
@[simp] theorem State.withStatus_irqAgg (s : State) (st : Status) : (s.withStatus st).irqAgg = s.irqAgg := rfl
@[simp] theorem State.withStatus_cycle (s : State) (st : Status) : (s.withStatus st).cycle = s.cycle := rfl
@[simp] theorem State.withStatus_status (s : State) (st : Status) : (s.withStatus st).status = st := rfl
@[simp] theorem State.withStatus_rst (s : State) (st : Status) : (s.withStatus st).rst = s.rst := rfl
@[simp] theorem State.withStatus_rxBytes (s : State) (st : Status) : (s.withStatus st).rxBytes = s.rxBytes := rfl
@[simp] theorem State.withStatus_rxPulled (s : State) (st : Status) : (s.withStatus st).rxPulled = s.rxPulled := rfl
@[simp] theorem State.withStatus_txOut (s : State) (st : Status) : (s.withStatus st).txOut = s.txOut := rfl
@[simp] theorem State.withStatus_txSink (s : State) (st : Status) : (s.withStatus st).txSink = s.txSink := rfl
@[simp] theorem State.withStatus_dsArmed (s : State) (st : Status) : (s.withStatus st).dsArmed = s.dsArmed := rfl

/-! ### `jumpTo` -/

@[simp] theorem State.jumpTo_cfg (s : State) (a : Word) : (s.jumpTo a).cfg = s.cfg := rfl
@[simp] theorem State.jumpTo_gpr (s : State) (a : Word) : (s.jumpTo a).gpr = s.gpr := rfl
@[simp] theorem State.jumpTo_pc (s : State) (a : Word) : (s.jumpTo a).pc = a := rfl
@[simp] theorem State.jumpTo_msr (s : State) (a : Word) : (s.jumpTo a).msr = s.msr := rfl
@[simp] theorem State.jumpTo_ear (s : State) (a : Word) : (s.jumpTo a).ear = s.ear := rfl
@[simp] theorem State.jumpTo_esr (s : State) (a : Word) : (s.jumpTo a).esr = s.esr := rfl
@[simp] theorem State.jumpTo_fsr (s : State) (a : Word) : (s.jumpTo a).fsr = s.fsr := rfl
@[simp] theorem State.jumpTo_btr (s : State) (a : Word) : (s.jumpTo a).btr = s.btr := rfl
@[simp] theorem State.jumpTo_uimm (s : State) (a : Word) : (s.jumpTo a).uimm = s.uimm := rfl
@[simp] theorem State.jumpTo_immPend (s : State) (a : Word) : (s.jumpTo a).immPend = s.immPend := rfl
@[simp] theorem State.jumpTo_retired (s : State) (a : Word) : (s.jumpTo a).retired = s.retired := rfl
@[simp] theorem State.jumpTo_fe (s : State) (a : Word) : (s.jumpTo a).fe = s.fe := rfl
@[simp] theorem State.jumpTo_de (s : State) (a : Word) : (s.jumpTo a).de = s.de := rfl
@[simp] theorem State.jumpTo_ex (s : State) (a : Word) : (s.jumpTo a).ex = s.ex := rfl
@[simp] theorem State.jumpTo_mem (s : State) (a : Word) : (s.jumpTo a).mem = s.mem := rfl
@[simp] theorem State.jumpTo_pend (s : State) (a : Word) : (s.jumpTo a).pend = s.pend := rfl
@[simp] theorem State.jumpTo_devices (s : State) (a : Word) : (s.jumpTo a).devices = s.devices := rfl
@[simp] theorem State.jumpTo_irqAgg (s : State) (a : Word) : (s.jumpTo a).irqAgg = s.irqAgg := rfl
@[simp] theorem State.jumpTo_cycle (s : State) (a : Word) : (s.jumpTo a).cycle = s.cycle := rfl
@[simp] theorem State.jumpTo_status (s : State) (a : Word) : (s.jumpTo a).status = .jump := rfl
@[simp] theorem State.jumpTo_rst (s : State) (a : Word) : (s.jumpTo a).rst = s.rst := rfl
@[simp] theorem State.jumpTo_rxBytes (s : State) (a : Word) : (s.jumpTo a).rxBytes = s.rxBytes := rfl
@[simp] theorem State.jumpTo_rxPulled (s : State) (a : Word) : (s.jumpTo a).rxPulled = s.rxPulled := rfl
@[simp] theorem State.jumpTo_txOut (s : State) (a : Word) : (s.jumpTo a).txOut = s.txOut := rfl
@[simp] theorem State.jumpTo_txSink (s : State) (a : Word) : (s.jumpTo a).txSink = s.txSink := rfl
@[simp] theorem State.jumpTo_dsArmed (s : State) (a : Word) : (s.jumpTo a).dsArmed = s.dsArmed := rfl

/-! ### `emptySlots` -/

@[simp] theorem State.emptySlots_cfg (s : State) : (s.emptySlots).cfg = s.cfg := rfl
@[simp] theorem State.emptySlots_gpr (s : State) : (s.emptySlots).gpr = s.gpr := rfl
@[simp] theorem State.emptySlots_pc (s : State) : (s.emptySlots).pc = s.pc := rfl
@[simp] theorem State.emptySlots_msr (s : State) : (s.emptySlots).msr = s.msr := rfl
@[simp] theorem State.emptySlots_ear (s : State) : (s.emptySlots).ear = s.ear := rfl
@[simp] theorem State.emptySlots_esr (s : State) : (s.emptySlots).esr = s.esr := rfl
@[simp] theorem State.emptySlots_fsr (s : State) : (s.emptySlots).fsr = s.fsr := rfl
@[simp] theorem State.emptySlots_btr (s : State) : (s.emptySlots).btr = s.btr := rfl
@[simp] theorem State.emptySlots_uimm (s : State) : (s.emptySlots).uimm = s.uimm := rfl
@[simp] theorem State.emptySlots_immPend (s : State) : (s.emptySlots).immPend = s.immPend := rfl
@[simp] theorem State.emptySlots_retired (s : State) : (s.emptySlots).retired = s.retired := rfl
@[simp] theorem State.emptySlots_fe (s : State) : (s.emptySlots).fe = none := rfl
@[simp] theorem State.emptySlots_de (s : State) : (s.emptySlots).de = none := rfl
@[simp] theorem State.emptySlots_ex (s : State) : (s.emptySlots).ex = none := rfl
@[simp] theorem State.emptySlots_mem (s : State) : (s.emptySlots).mem = s.mem := rfl
@[simp] theorem State.emptySlots_pend (s : State) : (s.emptySlots).pend = s.pend := rfl
@[simp] theorem State.emptySlots_devices (s : State) : (s.emptySlots).devices = s.devices := rfl
@[simp] theorem State.emptySlots_irqAgg (s : State) : (s.emptySlots).irqAgg = s.irqAgg := rfl
@[simp] theorem State.emptySlots_cycle (s : State) : (s.emptySlots).cycle = s.cycle := rfl
@[simp] theorem State.emptySlots_status (s : State) : (s.emptySlots).status = s.status := rfl
@[simp] theorem State.emptySlots_rst (s : State) : (s.emptySlots).rst = s.rst := rfl
@[simp] theorem State.emptySlots_rxBytes (s : State) : (s.emptySlots).rxBytes = s.rxBytes := rfl
@[simp] theorem State.emptySlots_rxPulled (s : State) : (s.emptySlots).rxPulled = s.rxPulled := rfl
@[simp] theorem State.emptySlots_txOut (s : State) : (s.emptySlots).txOut = s.txOut := rfl
@[simp] theorem State.emptySlots_txSink (s : State) : (s.emptySlots).txSink = s.txSink := rfl
@[simp] theorem State.emptySlots_dsArmed (s : State) : (s.emptySlots).dsArmed = s.dsArmed := rfl

/-! ### `raiseUnaligned` -/

@[simp] theorem State.raiseUnaligned_cfg (s : State) (ea : Word) (d : RegIdx) (b : Bool) : (s.raiseUnaligned ea d b).cfg = s.cfg := rfl
@[simp] theorem State.raiseUnaligned_gpr (s : State) (ea : Word) (d : RegIdx) (b : Bool) : (s.raiseUnaligned ea d b).gpr = s.gpr := rfl
@[simp] theorem State.raiseUnaligned_pc (s : State) (ea : Word) (d : RegIdx) (b : Bool) : (s.raiseUnaligned ea d b).pc = s.pc := rfl
@[simp] theorem State.raiseUnaligned_msr (s : State) (ea : Word) (d : RegIdx) (b : Bool) : (s.raiseUnaligned ea d b).msr = s.msr := rfl
@[simp] theorem State.raiseUnaligned_ear (s : State) (ea : Word) (d : RegIdx) (b : Bool) : (s.raiseUnaligned ea d b).ear = ea := rfl
@[simp] theorem State.raiseUnaligned_esr (s : State) (ea : Word) (d : RegIdx) (b : Bool) : (s.raiseUnaligned ea d b).esr = esrUnaligned s.cfg d b := rfl
@[simp] theorem State.raiseUnaligned_fsr (s : State) (ea : Word) (d : RegIdx) (b : Bool) : (s.raiseUnaligned ea d b).fsr = s.fsr := rfl
@[simp] theorem State.raiseUnaligned_btr (s : State) (ea : Word) (d : RegIdx) (b : Bool) : (s.raiseUnaligned ea d b).btr = s.btr := rfl
@[simp] theorem State.raiseUnaligned_uimm (s : State) (ea : Word) (d : RegIdx) (b : Bool) : (s.raiseUnaligned ea d b).uimm = s.uimm := rfl
@[simp] theorem State.raiseUnaligned_immPend (s : State) (ea : Word) (d : RegIdx) (b : Bool) : (s.raiseUnaligned ea d b).immPend = s.immPend := rfl
@[simp] theorem State.raiseUnaligned_retired (s : State) (ea : Word) (d : RegIdx) (b : Bool) : (s.raiseUnaligned ea d b).retired = s.retired := rfl
@[simp] theorem State.raiseUnaligned_fe (s : State) (ea : Word) (d : RegIdx) (b : Bool) : (s.raiseUnaligned ea d b).fe = s.fe := rfl
@[simp] theorem State.raiseUnaligned_de (s : State) (ea : Word) (d : RegIdx) (b : Bool) : (s.raiseUnaligned ea d b).de = s.de := rfl
@[simp] theorem State.raiseUnaligned_ex (s : State) (ea : Word) (d : RegIdx) (b : Bool) : (s.raiseUnaligned ea d b).ex = s.ex := rfl
@[simp] theorem State.raiseUnaligned_mem (s : State) (ea : Word) (d : RegIdx) (b : Bool) : (s.raiseUnaligned ea d b).mem = s.mem := rfl
@[simp] theorem State.raiseUnaligned_pend (s : State) (ea : Word) (d : RegIdx) (b : Bool) : (s.raiseUnaligned ea d b).pend = s.pend := rfl
@[simp] theorem State.raiseUnaligned_devices (s : State) (ea : Word) (d : RegIdx) (b : Bool) : (s.raiseUnaligned ea d b).devices = s.devices := rfl
@[simp] theorem State.raiseUnaligned_irqAgg (s : State) (ea : Word) (d : RegIdx) (b : Bool) : (s.raiseUnaligned ea d b).irqAgg = s.irqAgg := rfl
@[simp] theorem State.raiseUnaligned_cycle (s : State) (ea : Word) (d : RegIdx) (b : Bool) : (s.raiseUnaligned ea d b).cycle = s.cycle := rfl
@[simp] theorem State.raiseUnaligned_status (s : State) (ea : Word) (d : RegIdx) (b : Bool) : (s.raiseUnaligned ea d b).status = .memUnaligned := rfl
@[simp] theorem State.raiseUnaligned_rst (s : State) (ea : Word) (d : RegIdx) (b : Bool) : (s.raiseUnaligned ea d b).rst = s.rst := rfl
@[simp] theorem State.raiseUnaligned_rxBytes (s : State) (ea : Word) (d : RegIdx) (b : Bool) : (s.raiseUnaligned ea d b).rxBytes = s.rxBytes := rfl
@[simp] theorem State.raiseUnaligned_rxPulled (s : State) (ea : Word) (d : RegIdx) (b : Bool) : (s.raiseUnaligned ea d b).rxPulled = s.rxPulled := rfl
@[simp] theorem State.raiseUnaligned_txOut (s : State) (ea : Word) (d : RegIdx) (b : Bool) : (s.raiseUnaligned ea d b).txOut = s.txOut := rfl
@[simp] theorem State.raiseUnaligned_txSink (s : State) (ea : Word) (d : RegIdx) (b : Bool) : (s.raiseUnaligned ea d b).txSink = s.txSink := rfl
@[simp] theorem State.raiseUnaligned_dsArmed (s : State) (ea : Word) (d : RegIdx) (b : Bool) : (s.raiseUnaligned ea d b).dsArmed = s.dsArmed := rfl

/-! ### `interruptEntry` -/

@[simp] theorem State.interruptEntry_cfg (s : State) : (s.interruptEntry).cfg = s.cfg := rfl
@[simp] theorem State.interruptEntry_pc (s : State) : (s.interruptEntry).pc = s.cfg.intVector := rfl
@[simp] theorem State.interruptEntry_msr (s : State) : (s.interruptEntry).msr = s.msrWithoutIe := rfl
@[simp] theorem State.interruptEntry_ear (s : State) : (s.interruptEntry).ear = s.ear := rfl
@[simp] theorem State.interruptEntry_esr (s : State) : (s.interruptEntry).esr = s.esr := rfl
@[simp] theorem State.interruptEntry_fsr (s : State) : (s.interruptEntry).fsr = s.fsr := rfl
@[simp] theorem State.interruptEntry_btr (s : State) : (s.interruptEntry).btr = s.btr := rfl
@[simp] theorem State.interruptEntry_uimm (s : State) : (s.interruptEntry).uimm = s.uimm := rfl
@[simp] theorem State.interruptEntry_immPend (s : State) : (s.interruptEntry).immPend = s.immPend := rfl
@[simp] theorem State.interruptEntry_retired (s : State) : (s.interruptEntry).retired = s.retired := rfl
@[simp] theorem State.interruptEntry_fe (s : State) : (s.interruptEntry).fe = none := rfl
@[simp] theorem State.interruptEntry_de (s : State) : (s.interruptEntry).de = none := rfl
@[simp] theorem State.interruptEntry_ex (s : State) : (s.interruptEntry).ex = none := rfl
@[simp] theorem State.interruptEntry_mem (s : State) : (s.interruptEntry).mem = s.mem := rfl
@[simp] theorem State.interruptEntry_pend (s : State) : (s.interruptEntry).pend = s.pend := rfl
@[simp] theorem State.interruptEntry_devices (s : State) : (s.interruptEntry).devices = s.devices := rfl
@[simp] theorem State.interruptEntry_irqAgg (s : State) : (s.interruptEntry).irqAgg = s.irqAgg := rfl
@[simp] theorem State.interruptEntry_cycle (s : State) : (s.interruptEntry).cycle = s.cycle := rfl
@[simp] theorem State.interruptEntry_status (s : State) : (s.interruptEntry).status = .jump := rfl
@[simp] theorem State.interruptEntry_rst (s : State) : (s.interruptEntry).rst = s.rst := rfl
@[simp] theorem State.interruptEntry_rxBytes (s : State) : (s.interruptEntry).rxBytes = s.rxBytes := rfl
@[simp] theorem State.interruptEntry_rxPulled (s : State) : (s.interruptEntry).rxPulled = s.rxPulled := rfl
@[simp] theorem State.interruptEntry_txOut (s : State) : (s.interruptEntry).txOut = s.txOut := rfl
@[simp] theorem State.interruptEntry_txSink (s : State) : (s.interruptEntry).txSink = s.txSink := rfl
@[simp] theorem State.interruptEntry_dsArmed (s : State) : (s.interruptEntry).dsArmed = s.dsArmed := rfl

/-! ### `tickDevices` -/

@[simp] theorem State.tickDevices_cfg (s : State) : (s.tickDevices).cfg = s.cfg := rfl
@[simp] theorem State.tickDevices_gpr (s : State) : (s.tickDevices).gpr = s.gpr := rfl
@[simp] theorem State.tickDevices_pc (s : State) : (s.tickDevices).pc = s.pc := rfl
@[simp] theorem State.tickDevices_msr (s : State) : (s.tickDevices).msr = s.msr := rfl
@[simp] theorem State.tickDevices_ear (s : State) : (s.tickDevices).ear = s.ear := rfl
@[simp] theorem State.tickDevices_esr (s : State) : (s.tickDevices).esr = s.esr := rfl
@[simp] theorem State.tickDevices_fsr (s : State) : (s.tickDevices).fsr = s.fsr := rfl
@[simp] theorem State.tickDevices_btr (s : State) : (s.tickDevices).btr = s.btr := rfl
@[simp] theorem State.tickDevices_uimm (s : State) : (s.tickDevices).uimm = s.uimm := rfl
@[simp] theorem State.tickDevices_immPend (s : State) : (s.tickDevices).immPend = s.immPend := rfl
@[simp] theorem State.tickDevices_retired (s : State) : (s.tickDevices).retired = s.retired := rfl
@[simp] theorem State.tickDevices_fe (s : State) : (s.tickDevices).fe = s.fe := rfl
@[simp] theorem State.tickDevices_de (s : State) : (s.tickDevices).de = s.de := rfl
@[simp] theorem State.tickDevices_ex (s : State) : (s.tickDevices).ex = s.ex := rfl
@[simp] theorem State.tickDevices_mem (s : State) : (s.tickDevices).mem = s.mem := rfl
@[simp] theorem State.tickDevices_pend (s : State) : (s.tickDevices).pend = s.pend := rfl
@[simp] theorem State.tickDevices_devices (s : State) : (s.tickDevices).devices = s.devices.map (DeviceState.tick s.cfg) := rfl
@[simp] theorem State.tickDevices_cycle (s : State) : (s.tickDevices).cycle = s.cycle := rfl
@[simp] theorem State.tickDevices_status (s : State) : (s.tickDevices).status = s.status := rfl
@[simp] theorem State.tickDevices_rst (s : State) : (s.tickDevices).rst = s.rst := rfl
@[simp] theorem State.tickDevices_rxBytes (s : State) : (s.tickDevices).rxBytes = s.rxBytes := rfl
@[simp] theorem State.tickDevices_rxPulled (s : State) : (s.tickDevices).rxPulled = s.rxPulled := rfl
@[simp] theorem State.tickDevices_dsArmed (s : State) : (s.tickDevices).dsArmed = s.dsArmed := rfl

/-! ### `endCycle` -/

@[simp] theorem State.endCycle_cfg (s : State) : (s.endCycle).cfg = s.cfg := rfl
@[simp] theorem State.endCycle_gpr (s : State) : (s.endCycle).gpr = s.gpr := rfl
@[simp] theorem State.endCycle_pc (s : State) : (s.endCycle).pc = s.pc := rfl
@[simp] theorem State.endCycle_msr (s : State) : (s.endCycle).msr = s.msr := rfl
@[simp] theorem State.endCycle_ear (s : State) : (s.endCycle).ear = s.ear := rfl
@[simp] theorem State.endCycle_esr (s : State) : (s.endCycle).esr = s.esr := rfl
@[simp] theorem State.endCycle_fsr (s : State) : (s.endCycle).fsr = s.fsr := rfl
@[simp] theorem State.endCycle_btr (s : State) : (s.endCycle).btr = s.btr := rfl
@[simp] theorem State.endCycle_uimm (s : State) : (s.endCycle).uimm = s.uimm := rfl
@[simp] theorem State.endCycle_immPend (s : State) : (s.endCycle).immPend = s.immPend := rfl
@[simp] theorem State.endCycle_retired (s : State) : (s.endCycle).retired = s.retired := rfl
@[simp] theorem State.endCycle_fe (s : State) : (s.endCycle).fe = s.fe := rfl
@[simp] theorem State.endCycle_de (s : State) : (s.endCycle).de = s.de := rfl
@[simp] theorem State.endCycle_ex (s : State) : (s.endCycle).ex = s.ex := rfl
@[simp] theorem State.endCycle_mem (s : State) : (s.endCycle).mem = s.mem := rfl
@[simp] theorem State.endCycle_pend (s : State) : (s.endCycle).pend = s.pend := rfl
@[simp] theorem State.endCycle_devices (s : State) : (s.endCycle).devices = s.devices.map (DeviceState.tick s.cfg) := rfl
@[simp] theorem State.endCycle_cycle (s : State) : (s.endCycle).cycle = s.cycle + 1 := rfl
@[simp] theorem State.endCycle_status (s : State) : (s.endCycle).status = s.status := rfl
@[simp] theorem State.endCycle_rst (s : State) : (s.endCycle).rst = s.rst := rfl
@[simp] theorem State.endCycle_rxBytes (s : State) : (s.endCycle).rxBytes = s.rxBytes := rfl
@[simp] theorem State.endCycle_rxPulled (s : State) : (s.endCycle).rxPulled = s.rxPulled := rfl
@[simp] theorem State.endCycle_dsArmed (s : State) : (s.endCycle).dsArmed = s.dsArmed := rfl

/-! ### `shiftFetch` -/

@[simp] theorem State.shiftFetch_cfg (s : State) : (s.shiftFetch).cfg = s.cfg := rfl
@[simp] theorem State.shiftFetch_gpr (s : State) : (s.shiftFetch).gpr = s.gpr := rfl
@[simp] theorem State.shiftFetch_pc (s : State) : s.shiftFetch.pc = s.pc + BitVec.ofNat 32 (instrBytes s.cfg) := rfl
@[simp] theorem State.shiftFetch_msr (s : State) : (s.shiftFetch).msr = s.msr := rfl
@[simp] theorem State.shiftFetch_ear (s : State) : (s.shiftFetch).ear = s.ear := rfl
@[simp] theorem State.shiftFetch_esr (s : State) : (s.shiftFetch).esr = s.esr := rfl
@[simp] theorem State.shiftFetch_fsr (s : State) : (s.shiftFetch).fsr = s.fsr := rfl
@[simp] theorem State.shiftFetch_btr (s : State) : (s.shiftFetch).btr = s.btr := rfl
@[simp] theorem State.shiftFetch_uimm (s : State) : (s.shiftFetch).uimm = s.uimm := rfl
@[simp] theorem State.shiftFetch_immPend (s : State) : (s.shiftFetch).immPend = s.immPend := rfl
@[simp] theorem State.shiftFetch_retired (s : State) : (s.shiftFetch).retired = s.retired := rfl
@[simp] theorem State.shiftFetch_fe (s : State) : (s.shiftFetch).fe = some (s.fetchSlot s.pc) := rfl
@[simp] theorem State.shiftFetch_de (s : State) : (s.shiftFetch).de = s.fe.map (decodeSlot s.cfg) := rfl
@[simp] theorem State.shiftFetch_ex (s : State) : (s.shiftFetch).ex = s.ex := rfl
@[simp] theorem State.shiftFetch_mem (s : State) : (s.shiftFetch).mem = s.mem := rfl
@[simp] theorem State.shiftFetch_pend (s : State) : (s.shiftFetch).pend = s.pend := rfl
@[simp] theorem State.shiftFetch_devices (s : State) : (s.shiftFetch).devices = s.devices := rfl
@[simp] theorem State.shiftFetch_irqAgg (s : State) : (s.shiftFetch).irqAgg = s.irqAgg := rfl
@[simp] theorem State.shiftFetch_cycle (s : State) : (s.shiftFetch).cycle = s.cycle := rfl
@[simp] theorem State.shiftFetch_status (s : State) : (s.shiftFetch).status = s.status := rfl
@[simp] theorem State.shiftFetch_rst (s : State) : (s.shiftFetch).rst = s.rst := rfl
@[simp] theorem State.shiftFetch_rxBytes (s : State) : (s.shiftFetch).rxBytes = s.rxBytes := rfl
@[simp] theorem State.shiftFetch_rxPulled (s : State) : (s.shiftFetch).rxPulled = s.rxPulled := rfl
@[simp] theorem State.shiftFetch_txOut (s : State) : (s.shiftFetch).txOut = s.txOut := rfl
@[simp] theorem State.shiftFetch_txSink (s : State) : (s.shiftFetch).txSink = s.txSink := rfl
@[simp] theorem State.shiftFetch_dsArmed (s : State) : (s.shiftFetch).dsArmed = s.dsArmed := rfl

/-! ### `clearDelaySlotBit` and `retire` -/

@[simp] theorem State.clearDelaySlotBit_cfg (s : State) (inst : Inst) : (s.clearDelaySlotBit inst).cfg = s.cfg := by
  unfold State.clearDelaySlotBit; split <;> (try split) <;> (try split) <;> rfl
@[simp] theorem State.clearDelaySlotBit_gpr (s : State) (inst : Inst) : (s.clearDelaySlotBit inst).gpr = s.gpr := by
  unfold State.clearDelaySlotBit; split <;> (try split) <;> (try split) <;> rfl
@[simp] theorem State.clearDelaySlotBit_pc (s : State) (inst : Inst) : (s.clearDelaySlotBit inst).pc = s.pc := by
  unfold State.clearDelaySlotBit; split <;> (try split) <;> (try split) <;> rfl
@[simp] theorem State.clearDelaySlotBit_ear (s : State) (inst : Inst) : (s.clearDelaySlotBit inst).ear = s.ear := by
  unfold State.clearDelaySlotBit; split <;> (try split) <;> (try split) <;> rfl
@[simp] theorem State.clearDelaySlotBit_esr (s : State) (inst : Inst) : (s.clearDelaySlotBit inst).esr = s.esr := by
  unfold State.clearDelaySlotBit; split <;> (try split) <;> (try split) <;> rfl
@[simp] theorem State.clearDelaySlotBit_fsr (s : State) (inst : Inst) : (s.clearDelaySlotBit inst).fsr = s.fsr := by
  unfold State.clearDelaySlotBit; split <;> (try split) <;> (try split) <;> rfl
@[simp] theorem State.clearDelaySlotBit_btr (s : State) (inst : Inst) : (s.clearDelaySlotBit inst).btr = s.btr := by
  unfold State.clearDelaySlotBit; split <;> (try split) <;> (try split) <;> rfl
@[simp] theorem State.clearDelaySlotBit_uimm (s : State) (inst : Inst) : (s.clearDelaySlotBit inst).uimm = s.uimm := by
  unfold State.clearDelaySlotBit; split <;> (try split) <;> (try split) <;> rfl
@[simp] theorem State.clearDelaySlotBit_immPend (s : State) (inst : Inst) : (s.clearDelaySlotBit inst).immPend = s.immPend := by
  unfold State.clearDelaySlotBit; split <;> (try split) <;> (try split) <;> rfl
@[simp] theorem State.clearDelaySlotBit_retired (s : State) (inst : Inst) : (s.clearDelaySlotBit inst).retired = s.retired := by
  unfold State.clearDelaySlotBit; split <;> (try split) <;> (try split) <;> rfl
@[simp] theorem State.clearDelaySlotBit_fe (s : State) (inst : Inst) : (s.clearDelaySlotBit inst).fe = s.fe := by
  unfold State.clearDelaySlotBit; split <;> (try split) <;> (try split) <;> rfl
@[simp] theorem State.clearDelaySlotBit_de (s : State) (inst : Inst) : (s.clearDelaySlotBit inst).de = s.de := by
  unfold State.clearDelaySlotBit; split <;> (try split) <;> (try split) <;> rfl
@[simp] theorem State.clearDelaySlotBit_ex (s : State) (inst : Inst) : (s.clearDelaySlotBit inst).ex = s.ex := by
  unfold State.clearDelaySlotBit; split <;> (try split) <;> (try split) <;> rfl
@[simp] theorem State.clearDelaySlotBit_mem (s : State) (inst : Inst) : (s.clearDelaySlotBit inst).mem = s.mem := by
  unfold State.clearDelaySlotBit; split <;> (try split) <;> (try split) <;> rfl
@[simp] theorem State.clearDelaySlotBit_pend (s : State) (inst : Inst) : (s.clearDelaySlotBit inst).pend = s.pend := by
  unfold State.clearDelaySlotBit; split <;> (try split) <;> (try split) <;> rfl
@[simp] theorem State.clearDelaySlotBit_devices (s : State) (inst : Inst) : (s.clearDelaySlotBit inst).devices = s.devices := by
  unfold State.clearDelaySlotBit; split <;> (try split) <;> (try split) <;> rfl
@[simp] theorem State.clearDelaySlotBit_irqAgg (s : State) (inst : Inst) : (s.clearDelaySlotBit inst).irqAgg = s.irqAgg := by
  unfold State.clearDelaySlotBit; split <;> (try split) <;> (try split) <;> rfl
@[simp] theorem State.clearDelaySlotBit_cycle (s : State) (inst : Inst) : (s.clearDelaySlotBit inst).cycle = s.cycle := by
  unfold State.clearDelaySlotBit; split <;> (try split) <;> (try split) <;> rfl
@[simp] theorem State.clearDelaySlotBit_status (s : State) (inst : Inst) : (s.clearDelaySlotBit inst).status = s.status := by
  unfold State.clearDelaySlotBit; split <;> (try split) <;> (try split) <;> rfl
@[simp] theorem State.clearDelaySlotBit_rst (s : State) (inst : Inst) : (s.clearDelaySlotBit inst).rst = s.rst := by
  unfold State.clearDelaySlotBit; split <;> (try split) <;> (try split) <;> rfl
@[simp] theorem State.clearDelaySlotBit_rxBytes (s : State) (inst : Inst) : (s.clearDelaySlotBit inst).rxBytes = s.rxBytes := by
  unfold State.clearDelaySlotBit; split <;> (try split) <;> (try split) <;> rfl
@[simp] theorem State.clearDelaySlotBit_rxPulled (s : State) (inst : Inst) : (s.clearDelaySlotBit inst).rxPulled = s.rxPulled := by
  unfold State.clearDelaySlotBit; split <;> (try split) <;> (try split) <;> rfl
@[simp] theorem State.clearDelaySlotBit_txOut (s : State) (inst : Inst) : (s.clearDelaySlotBit inst).txOut = s.txOut := by
  unfold State.clearDelaySlotBit; split <;> (try split) <;> (try split) <;> rfl
@[simp] theorem State.clearDelaySlotBit_txSink (s : State) (inst : Inst) : (s.clearDelaySlotBit inst).txSink = s.txSink := by
  unfold State.clearDelaySlotBit; split <;> (try split) <;> (try split) <;> rfl
@[simp] theorem State.retire_cfg (s : State) : s.retire.cfg = s.cfg := by
  unfold State.retire; split <;> simp
@[simp] theorem State.retire_gpr (s : State) : s.retire.gpr = s.gpr := by
  unfold State.retire; split <;> simp
@[simp] theorem State.retire_pc (s : State) : s.retire.pc = s.pc := by
  unfold State.retire; split <;> simp
@[simp] theorem State.retire_ear (s : State) : s.retire.ear = s.ear := by
  unfold State.retire; split <;> simp
@[simp] theorem State.retire_esr (s : State) : s.retire.esr = s.esr := by
  unfold State.retire; split <;> simp
@[simp] theorem State.retire_fsr (s : State) : s.retire.fsr = s.fsr := by
  unfold State.retire; split <;> simp
@[simp] theorem State.retire_btr (s : State) : s.retire.btr = s.btr := by
  unfold State.retire; split <;> simp
@[simp] theorem State.retire_uimm (s : State) : s.retire.uimm = s.uimm := by
  unfold State.retire; split <;> simp
@[simp] theorem State.retire_immPend (s : State) : s.retire.immPend = s.immPend := by
  unfold State.retire; split <;> simp
@[simp] theorem State.retire_fe (s : State) : s.retire.fe = s.fe := by
  unfold State.retire; split <;> simp
@[simp] theorem State.retire_de (s : State) : s.retire.de = s.de := by
  unfold State.retire; split <;> simp
@[simp] theorem State.retire_ex (s : State) : s.retire.ex = s.ex := by
  unfold State.retire; split <;> simp
@[simp] theorem State.retire_mem (s : State) : s.retire.mem = s.mem := by
  unfold State.retire; split <;> simp
@[simp] theorem State.retire_pend (s : State) : s.retire.pend = s.pend := by
  unfold State.retire; split <;> simp
@[simp] theorem State.retire_devices (s : State) : s.retire.devices = s.devices := by
  unfold State.retire; split <;> simp
@[simp] theorem State.retire_irqAgg (s : State) : s.retire.irqAgg = s.irqAgg := by
  unfold State.retire; split <;> simp
@[simp] theorem State.retire_cycle (s : State) : s.retire.cycle = s.cycle := by
  unfold State.retire; split <;> simp
@[simp] theorem State.retire_status (s : State) : s.retire.status = s.status := by
  unfold State.retire; split <;> simp
@[simp] theorem State.retire_rst (s : State) : s.retire.rst = s.rst := by
  unfold State.retire; split <;> simp
@[simp] theorem State.retire_rxBytes (s : State) : s.retire.rxBytes = s.rxBytes := by
  unfold State.retire; split <;> simp
@[simp] theorem State.retire_rxPulled (s : State) : s.retire.rxPulled = s.rxPulled := by
  unfold State.retire; split <;> simp
@[simp] theorem State.retire_txOut (s : State) : s.retire.txOut = s.txOut := by
  unfold State.retire; split <;> simp
@[simp] theorem State.retire_txSink (s : State) : s.retire.txSink = s.txSink := by
  unfold State.retire; split <;> simp

end Sys2Proof.Machine
end

