-- ==== Sys2Proof/Laws/Bus.lean ====
section
/-! SUPPORT. Everything a bus call can do (20_memory.md R67), everything a half-word access can do (43_load_store.md R190), and
the sequencing lemma they are peeled apart with. -/

namespace Sys2Proof.Machine

/-- A sequence answers next exactly when both parts do. -/
theorem andThen_next {α β : Type} {o : Host.Outcome α Fault Refusal} {f : α → Host.Outcome β Fault Refusal} {b : β} :
    andThen o f = .next b ↔ ∃ a, o = .next a ∧ f a = .next b := by
  cases o <;> simp [andThen]

@[simp] theorem andThen_of_next {α β : Type} (a : α) (f : α → Host.Outcome β Fault Refusal) : andThen (.next a) f = f a := rfl

@[simp] theorem andThen_of_fault {α β : Type} (r : Fault) (f : α → Host.Outcome β Fault Refusal) :
    andThen (.fault r) f = .fault r := rfl

@[simp] theorem andThen_of_refused {α β : Type} (r : Refusal) (f : α → Host.Outcome β Fault Refusal) :
    andThen (.refused r) f = .refused r := rfl

/-- Pulling a byte changes RX_SOURCE's side alone. -/
theorem pullRx_spec (s : State) : ∃ bs n, s.pullRx.2 = { s with rxBytes := bs, rxPulled := n } := by
  unfold State.pullRx
  split
  · exact ⟨_, s.rxPulled, rfl⟩
  · exact ⟨s.rxBytes, _, rfl⟩

/-- A register read changes RX_SOURCE's side at most. -/
theorem readRegister_next {s t : State} {r : RegRef} {v : Word} (h : s.readRegister r = .next (v, t)) :
    ∃ bs n, t = { s with rxBytes := bs, rxPulled := n } := by
  unfold State.readRegister at h
  split at h
  · cases h
  · split at h <;> cases h
    · exact pullRx_spec s
    all_goals exact ⟨s.rxBytes, s.rxPulled, rfl⟩

/-- A completing read changes RX_SOURCE's side at most (R68, R70). -/
theorem memRead_next {s t : State} {n : Width} {a v : Word} (h : s.memRead n a = .next (v, t)) :
    ∃ bs k, t = { s with rxBytes := bs, rxPulled := k } := by
  unfold State.memRead at h
  split at h
  · split at h <;> cases h
    exact ⟨s.rxBytes, s.rxPulled, rfl⟩
  · obtain ⟨vs, h1, h2⟩ := andThen_next.mp h
    cases h2
    exact readRegister_next h1
  · cases h

/-- The image lane of a completing read (R68). -/
theorem memRead_image {s t : State} {n : Width} {a v : Word} (hi : targetOf s.cfg a = .image)
    (h : s.memRead n a = .next (v, t)) : s.mem.load s.cfg.bigEndian n a = some v ∧ t = s := by
  unfold State.memRead at h
  rw [hi] at h
  simp only at h
  split at h <;> cases h
  exact ⟨by assumption, rfl⟩

/-- A completing write stores the lane of an image target, or stages a device register, and nothing else (R69, R71). -/
theorem memWrite_next {s t : State} {n : Width} {a d : Word} (h : s.memWrite n a d = .next t) :
    (targetOf s.cfg a = .image ∧ t = { s with mem := s.mem.store s.cfg.bigEndian n a d }) ∨
    (∃ r reg, targetOf s.cfg a = .register r ∧ (s.devices[r.dev]?).bind (fun dev => dev.reg? r.name) = some reg ∧
      t = { s with devices :=
        s.devices.modify r.dev (fun dev => dev.putReg r.name (withLane s.cfg.bigEndian n a reg.get d)) }) := by
  unfold State.memWrite at h
  split at h
  · cases h; exact .inl ⟨by assumption, rfl⟩
  · unfold State.writeRegister at h
    split at h <;> cases h
    exact .inr ⟨_, _, by assumption, by assumption, rfl⟩
  · cases h

/-- Everything a bus call can answer (R67). -/
theorem bus_next {s t : State} {k : BusKind} {n : Width} {a d : Word} {r : BusReply} (h : s.bus k n a d = .next (r, t)) :
    (misaligned n a = true ∧ r = .unaligned ∧ t = s) ∨
    (misaligned n a = false ∧ 0 < s.busCount k n a d ∧ r = (if regionOf s.cfg a = .map then .mapped else .access) ∧
      t = { s with pend := some ⟨k, n, a, d, s.busCount k n a d⟩ }) ∨
    (misaligned n a = false ∧ s.busCount k n a d = 0 ∧ k = .read ∧
      ∃ v, r = .ready v ∧ { s with pend := none }.memRead n a = .next (v, t)) ∨
    (misaligned n a = false ∧ s.busCount k n a d = 0 ∧ k = .write ∧ r = .ready 0 ∧
      { s with pend := none }.memWrite n a d = .next t) := by
  unfold State.bus at h
  split at h
  · cases h; exact .inl ⟨by assumption, rfl, rfl⟩
  · rename_i hm
    have hm : misaligned n a = false := by simpa using hm
    split at h
    · cases h; exact .inr (.inl ⟨hm, by assumption, rfl, rfl⟩)
    · rename_i hc
      have hc : s.busCount k n a d = 0 := by omega
      cases k with
      | read =>
        obtain ⟨vs, h1, h2⟩ := andThen_next.mp h
        cases h2
        exact .inr (.inr (.inl ⟨hm, hc, rfl, vs.1, rfl, h1⟩))
      | write =>
        obtain ⟨u, h1, h2⟩ := andThen_next.mp h
        cases h2
        exact .inr (.inr (.inr ⟨hm, hc, rfl, rfl, h1⟩))

/-- What a bus call leaves alone, whatever it answers: all but the image, PEND, the device registers and RX_SOURCE. -/
theorem bus_keeps {s t : State} {k : BusKind} {n : Width} {a d : Word} {r : BusReply} (h : s.bus k n a d = .next (r, t)) :
    ∃ m p ds bs j, t = { s with mem := m, pend := p, devices := ds, rxBytes := bs, rxPulled := j } := by
  rcases bus_next h with ⟨-, -, rfl⟩ | ⟨-, -, -, rfl⟩ | ⟨-, -, -, v, -, h⟩ | ⟨-, -, -, -, h⟩
  · exact ⟨_, _, _, _, _, rfl⟩
  · exact ⟨_, _, _, _, _, rfl⟩
  · obtain ⟨bs, j, rfl⟩ := memRead_next h
    exact ⟨_, _, _, _, _, rfl⟩
  · rcases memWrite_next h with ⟨-, rfl⟩ | ⟨_, _, -, -, rfl⟩ <;> exact ⟨_, _, _, _, _, rfl⟩

/-- Everything a half-word load can do (43_load_store.md R190). -/
theorem loadHalf_next {s t : State} {ea : Word} {rD : RegIdx} (h : s.loadHalf ea rD = .next t) :
    ∃ r u, s.bus .read .half ea 0 = .next (r, u) ∧ t = u.afterWait ea rD false r := by
  obtain ⟨ru, h1, h2⟩ := andThen_next.mp h
  cases h2
  exact ⟨ru.1, ru.2, h1, rfl⟩

/-- Everything a half-word store can do (43_load_store.md R190). -/
theorem storeHalf_next {s t : State} {ea : Word} {rD : RegIdx} (h : s.storeHalf ea rD = .next t) :
    ∃ r u, s.bus .write .half ea (s.storeDatum rD) = .next (r, u) ∧ t = u.afterWait ea rD true r := by
  obtain ⟨ru, h1, h2⟩ := andThen_next.mp h
  cases h2
  exact ⟨ru.1, ru.2, h1, rfl⟩

/-- What the last half of an access writes: general registers, EAR, ESR and the status. -/
theorem afterWait_keeps (s : State) (ea : Word) (rD : RegIdx) (store : Bool) (r : BusReply) :
    ∃ g e x st, s.afterWait ea rD store r = { s with gpr := g, ear := e, esr := x, status := st } := by
  cases r <;> simp only [State.afterWait]
  · split
    · exact ⟨_, _, _, _, rfl⟩
    · exact ⟨_, _, _, _, rfl⟩
  all_goals exact ⟨_, _, _, _, rfl⟩

end Sys2Proof.Machine
end

