-- ==== Sys2Proof/Laws/Devices.lean ====
section
/-! SUPPORT. The small lemmas of the Device Register protocol (60_exceptions.md R240 to R246) and of the device ticks: what each
writes, bit by bit where it is a bit. -/

namespace Sys2Proof.Machine

@[simp] theorem DevReg.put_committed (r : DevReg) (v : Word) : (r.put v).committed = r.committed := rfl
@[simp] theorem DevReg.put_pending (r : DevReg) (v : Word) : (r.put v).pending = v := rfl
@[simp] theorem DevReg.put_dirty (r : DevReg) (v : Word) : (r.put v).dirty = true := rfl
@[simp] theorem DevReg.get_put (r : DevReg) (v : Word) : (r.put v).get = r.get := rfl

/-- `update()` of a plain register commits the pending value when dirty (R242). -/
theorem DevReg.update_committed (r : DevReg) : r.update.committed = if r.dirty then r.pending else r.committed := by
  unfold DevReg.update; split <;> simp

@[simp] theorem DevReg.update_dirty (r : DevReg) : r.update.dirty = false := by
  unfold DevReg.update; split <;> simp_all

/-- Bit `i` of a word with bit `n` replaced. -/
theorem getLsbD_setBit (v : Word) (n : Nat) (b : Bool) (i : Nat) (hn : n < 32) :
    (setBit v n b).getLsbD i = if i = n then b else v.getLsbD i := by
  unfold setBit
  have hone : ((1#32) <<< n).getLsbD i = decide (i = n) := by
    rw [BitVec.getLsbD_shiftLeft]
    by_cases h : i = n
    · subst h; simp [hn]
    · by_cases h2 : i < n
      · simp [h, h2]
      · have : i - n ≠ 0 := by omega
        by_cases h3 : i < 32 <;> simp [h, h2, h3, this, BitVec.getLsbD_one]
  cases b
  · rw [if_neg (by simp), BitVec.getLsbD_and, BitVec.getLsbD_not, hone]
    by_cases h : i = n
    · simp [h]
    · by_cases h3 : i < 32
      · simp [h, h3]
      · simp [h, BitVec.getLsbD_of_ge v i (by omega)]
  · rw [if_pos rfl, BitVec.getLsbD_or, hone]
    by_cases h : i = n <;> simp [h]

/-- `force(tint, b)` shows in the committed bit and touches neither PENDING nor DIRTY (R245). -/
theorem Tcsr.forceTint_spec (r : Tcsr) (b : Bool) :
    (r.forceTint b).flags = { r.flags with tint := b } ∧ (r.forceTint b).reg.pending = r.reg.pending ∧
    (r.forceTint b).reg.dirty = r.reg.dirty ∧
    ∀ i, (r.forceTint b).reg.committed.getLsbD i = if i = tintBit then b else r.reg.committed.getLsbD i :=
  ⟨rfl, rfl, rfl, fun i => getLsbD_setBit _ _ _ _ (by decide)⟩

/-- `force(ent, b)` (R245). -/
theorem Tcsr.forceEnt_spec (r : Tcsr) (b : Bool) :
    (r.forceEnt b).flags = { r.flags with ent := b } ∧ (r.forceEnt b).reg.pending = r.reg.pending ∧
    (r.forceEnt b).reg.dirty = r.reg.dirty ∧
    ∀ i, (r.forceEnt b).reg.committed.getLsbD i = if i = entBit then b else r.reg.committed.getLsbD i :=
  ⟨rfl, rfl, rfl, fun i => getLsbD_setBit _ _ _ _ (by decide)⟩

/-- `force(enall, b)` (R245). -/
theorem Tcsr.forceEnall_spec (r : Tcsr) (b : Bool) :
    (r.forceEnall b).flags = { r.flags with enall := b } ∧ (r.forceEnall b).reg.pending = r.reg.pending ∧
    (r.forceEnall b).reg.dirty = r.reg.dirty ∧
    ∀ i, (r.forceEnall b).reg.committed.getLsbD i = if i = enallBit then b else r.reg.committed.getLsbD i :=
  ⟨rfl, rfl, rfl, fun i => getLsbD_setBit _ _ _ _ (by decide)⟩

/-- The bits of the value a TCSR commits: bit 8 shows the flag, bit 7 is set by ENALL, every other bit is as written (R243). -/
theorem committedTcsr_bit (v : Word) (tint : Bool) (i : Nat) :
    (committedTcsr v tint).getLsbD i =
      if i = tintBit then decodedTint v tint
      else if i = entBit then v.getLsbD entBit || v.getLsbD enallBit
      else v.getLsbD i := by
  have h8 : tintBit < 32 := by decide
  have h7 : entBit < 32 := by decide
  unfold committedTcsr
  simp only
  split
  · rename_i h
    rw [getLsbD_setBit _ _ _ _ h7, getLsbD_setBit _ _ _ _ h8]
    by_cases h1 : i = entBit
    · subst h1; simp [h, entBit, tintBit]
    · simp [h1]
  · rename_i h
    rw [getLsbD_setBit _ _ _ _ h8]
    by_cases h1 : i = entBit
    · subst h1; simp [h]
    · simp [h1]

/-- `update()` of a TCSR (R242, R243, R246). -/
theorem Tcsr.update_spec (r q : Tcsr) :
    (r.reg.dirty = false ∧ r.update q = (r, q)) ∨
    (r.reg.dirty = true ∧ (r.update q).1.reg.committed = committedTcsr r.reg.pending r.flags.tint ∧
      (r.update q).1.flags = decodedFlags r.reg.pending r.flags.tint ∧ (r.update q).1.reg.dirty = false ∧
      (r.update q).2 = if r.reg.pending.getLsbD enallBit then (q.forceEnall true).forceEnt true else q) := by
  unfold Tcsr.update
  by_cases h : r.reg.dirty <;> simp [h]

/-- A tick keeps a device's variant. -/
@[simp] theorem DeviceState.tick_variant (c : Config) (d : DeviceState) : (d.tick c).variant = d.variant := by
  cases d <;> rfl

/-- A `put` keeps a device's variant. -/
@[simp] theorem DeviceState.putReg_variant (d : DeviceState) (n : RegName) (v : Word) :
    (d.putReg n v).variant = d.variant := by
  cases d <;> rfl

/-- A device after reset has the variant asked for. -/
@[simp] theorem DeviceState.zero_variant (c : Config) (v : Variant) : (DeviceState.zero c v).variant = v := by
  cases v <;> rfl

/-- Each contribution is 0 or 1, so the sum is at most the number of devices (60_exceptions.md R251). -/
theorem irqSum_le (ds : List DeviceState) : irqSum ds ≤ ds.length := by
  induction ds with
  | nil => simp [irqSum]
  | cons d ds ih =>
    have hb : d.irq.toNat ≤ 1 := by cases d.irq <;> simp
    simp only [irqSum, List.map_cons, List.sum_cons, List.length_cons] at ih ⊢
    omega

end Sys2Proof.Machine
end

