-- ==== Sys2Proof/Laws/Encoding.lean ====
section
/-! SUPPORT. The fields of a word built in one of the four formats, and a word from its fields (30_encoding.md R101, R102). -/

namespace Sys2Proof.Laws

/-- The fields of a format-B word. -/
theorem formatB_fields (op : BitVec 6) (d a : BitVec 5) (imm : BitVec 16) :
    fieldOp (op ++ d ++ a ++ imm) = op ∧ fieldRd (op ++ d ++ a ++ imm) = d ∧ fieldRa (op ++ d ++ a ++ imm) = a ∧
      fieldImm16 (op ++ d ++ a ++ imm) = imm := by
  simp only [fieldOp, fieldRd, fieldRa, fieldImm16]; grind

/-- The fields of a format-A word. -/
theorem formatA_fields (op : BitVec 6) (d a b : BitVec 5) (f : BitVec 11) :
    fieldOp (op ++ d ++ a ++ b ++ f) = op ∧ fieldRd (op ++ d ++ a ++ b ++ f) = d ∧ fieldRa (op ++ d ++ a ++ b ++ f) = a ∧
      fieldRb (op ++ d ++ a ++ b ++ f) = b ∧ fieldFunc (op ++ d ++ a ++ b ++ f) = f := by
  simp only [fieldOp, fieldRd, fieldRa, fieldRb, fieldFunc]; grind

/-- The fields of a format-S word. -/
theorem formatS_fields (op : BitVec 6) (d a : BitVec 5) (k : BitVec 2) (sel : BitVec 14) :
    fieldOp (op ++ d ++ a ++ k ++ sel) = op ∧ fieldRd (op ++ d ++ a ++ k ++ sel) = d ∧
      fieldRa (op ++ d ++ a ++ k ++ sel) = a ∧ fieldKind (op ++ d ++ a ++ k ++ sel) = k ∧
      fieldSel (op ++ d ++ a ++ k ++ sel) = sel := by
  simp only [fieldOp, fieldRd, fieldRa, fieldKind, fieldSel]; grind

/-- The fields of a format-M word. -/
theorem formatM_fields (op : BitVec 6) (d a : BitVec 5) (k : BitVec 1) (m : BitVec 15) :
    fieldOp (op ++ d ++ a ++ k ++ m) = op ∧ fieldRd (op ++ d ++ a ++ k ++ m) = d ∧
      fieldRa (op ++ d ++ a ++ k ++ m) = a ∧ fieldBit15 (op ++ d ++ a ++ k ++ m) = k ∧
      fieldImm15 (op ++ d ++ a ++ k ++ m) = m := by
  simp only [fieldOp, fieldRd, fieldRa, fieldBit15, fieldImm15]; grind

/-- A word is the format-B word of its fields. -/
theorem formatB_of_fields (w : Word) : fieldOp w ++ fieldRd w ++ fieldRa w ++ fieldImm16 w = w := by
  simp only [fieldOp, fieldRd, fieldRa, fieldImm16]; grind

/-- A word is the format-A word of its fields. -/
theorem formatA_of_fields (w : Word) : fieldOp w ++ fieldRd w ++ fieldRa w ++ fieldRb w ++ fieldFunc w = w := by
  simp only [fieldOp, fieldRd, fieldRa, fieldRb, fieldFunc]; grind

/-- A word is the format-S word of its fields. -/
theorem formatS_of_fields (w : Word) : fieldOp w ++ fieldRd w ++ fieldRa w ++ fieldKind w ++ fieldSel w = w := by
  simp only [fieldOp, fieldRd, fieldRa, fieldKind, fieldSel]; grind

/-- A word is the format-M word of its fields. -/
theorem formatM_of_fields (w : Word) : fieldOp w ++ fieldRd w ++ fieldRa w ++ fieldBit15 w ++ fieldImm15 w = w := by
  simp only [fieldOp, fieldRd, fieldRa, fieldBit15, fieldImm15]; grind

/-- The bytes of a word, joined, are the word. -/
theorem wordOfBytes_bytes (w : Word) :
    wordOfBytes (w.extractLsb' 24 8) (w.extractLsb' 16 8) (w.extractLsb' 8 8) (w.extractLsb' 0 8) = w := by
  simp only [wordOfBytes]; grind

end Sys2Proof.Laws
end

