-- ==== Sys2Proof/Laws/PerInstr.lean ====
section
/-! SUPPORT. The bits of each encoding format (30_encoding.md R101), and the family `EncodingRow`: the word of every instruction
matches the opcode-map row of its own name (R104). -/

namespace Sys2Proof.Laws

/-- Bit `i` of a format-B word. -/
theorem formatB_bit (op : BitVec 6) (d a : BitVec 5) (imm : BitVec 16) (i : Nat) :
    (op ++ d ++ a ++ imm : Word).getLsbD i =
      if i < 16 then imm.getLsbD i else if i < 21 then a.getLsbD (i - 16)
      else if i < 26 then d.getLsbD (i - 21) else op.getLsbD (i - 26) := by
  simp only [BitVec.getLsbD_append, Nat.sub_sub]
  grind

/-- Bit `i` of a format-A word. -/
theorem formatA_bit (op : BitVec 6) (d a b : BitVec 5) (f : BitVec 11) (i : Nat) :
    (op ++ d ++ a ++ b ++ f : Word).getLsbD i =
      if i < 11 then f.getLsbD i else if i < 16 then b.getLsbD (i - 11) else if i < 21 then a.getLsbD (i - 16)
      else if i < 26 then d.getLsbD (i - 21) else op.getLsbD (i - 26) := by
  simp only [BitVec.getLsbD_append, Nat.sub_sub]
  grind

/-- Bit `i` of a format-S word. -/
theorem formatS_bit (op : BitVec 6) (d a : BitVec 5) (k : BitVec 2) (sel : BitVec 14) (i : Nat) :
    (op ++ d ++ a ++ k ++ sel : Word).getLsbD i =
      if i < 14 then sel.getLsbD i else if i < 16 then k.getLsbD (i - 14) else if i < 21 then a.getLsbD (i - 16)
      else if i < 26 then d.getLsbD (i - 21) else op.getLsbD (i - 26) := by
  simp only [BitVec.getLsbD_append, Nat.sub_sub]
  grind

/-- Bit `i` of a format-M word. -/
theorem formatM_bit (op : BitVec 6) (d a : BitVec 5) (k : BitVec 1) (m : BitVec 15) (i : Nat) :
    (op ++ d ++ a ++ k ++ m : Word).getLsbD i =
      if i < 15 then m.getLsbD i else if i < 16 then k.getLsbD (i - 15) else if i < 21 then a.getLsbD (i - 16)
      else if i < 26 then d.getLsbD (i - 21) else op.getLsbD (i - 26) := by
  simp only [BitVec.getLsbD_append, Nat.sub_sub]
  grind

/-- The word of the instruction matches the row of its name in the opcode map. -/
def EncodingRow.Statement (i : Instr) : Prop :=
  ∃ r ∈ opcodeMap, r.mnemonic = i.mnemonic ∧ r.matches (encode i) = true

/-- A row matches a word when each of the 32 bits does. -/
theorem row_matches_of_bits (r : OpcodeRow) (w : Word)
    (h : ∀ i, i < 32 → (w.getLsbD i && r.mask.getLsbD i) = r.bits.getLsbD i) : r.matches w = true := by
  have hw : w &&& r.mask = r.bits := BitVec.eq_of_getLsbD_eq fun i hi => by rw [BitVec.getLsbD_and]; exact h i hi
  simp [OpcodeRow.matches, hw]

theorem EncodingRow.addik (rD rA : RegIdx) (imm16 : BitVec 16) : EncodingRow.Statement (.addik rD rA imm16) := by
  refine ⟨⟨.addik, 0x30000000#32, 0xFC000000#32⟩, by decide, rfl, row_matches_of_bits _ _ fun i hi => ?_⟩
  simp only [encode, formatB_bit]; interval_cases i <;> simp

theorem EncodingRow.imm (imm16 : BitVec 16) : EncodingRow.Statement (.imm imm16) := by
  refine ⟨⟨.imm, 0xB0000000#32, 0xFFFF0000#32⟩, by decide, rfl, row_matches_of_bits _ _ fun i hi => ?_⟩
  simp only [encode, formatB_bit]; interval_cases i <;> simp

theorem EncodingRow.beqi (rA : RegIdx) (imm16 : BitVec 16) : EncodingRow.Statement (.beqi rA imm16) := by
  refine ⟨⟨.beqi, 0xBC000000#32, 0xFFE00000#32⟩, by decide, rfl, row_matches_of_bits _ _ fun i hi => ?_⟩
  simp only [encode, formatB_bit]; interval_cases i <;> simp

theorem EncodingRow.blt (rA rB : RegIdx) : EncodingRow.Statement (.blt rA rB) := by
  refine ⟨⟨.blt, 0x9C400000#32, 0xFFE007FF#32⟩, by decide, rfl, row_matches_of_bits _ _ fun i hi => ?_⟩
  simp only [encode, formatA_bit]; interval_cases i <;> simp

theorem EncodingRow.bralid (rD : RegIdx) (imm16 : BitVec 16) : EncodingRow.Statement (.bralid rD imm16) := by
  refine ⟨⟨.bralid, 0xB81C0000#32, 0xFC1F0000#32⟩, by decide, rfl, row_matches_of_bits _ _ fun i hi => ?_⟩
  simp only [encode, formatB_bit]; interval_cases i <;> simp

theorem EncodingRow.lhu (rD rA rB : RegIdx) : EncodingRow.Statement (.lhu rD rA rB) := by
  refine ⟨⟨.lhu, 0xC4000000#32, 0xFC0007FF#32⟩, by decide, rfl, row_matches_of_bits _ _ fun i hi => ?_⟩
  simp only [encode, formatA_bit]; interval_cases i <;> simp

theorem EncodingRow.lhui (rD rA : RegIdx) (imm16 : BitVec 16) : EncodingRow.Statement (.lhui rD rA imm16) := by
  refine ⟨⟨.lhui, 0xE4000000#32, 0xFC000000#32⟩, by decide, rfl, row_matches_of_bits _ _ fun i hi => ?_⟩
  simp only [encode, formatB_bit]; interval_cases i <;> simp

theorem EncodingRow.sh (rD rA rB : RegIdx) : EncodingRow.Statement (.sh rD rA rB) := by
  refine ⟨⟨.sh, 0xD4000000#32, 0xFC0007FF#32⟩, by decide, rfl, row_matches_of_bits _ _ fun i hi => ?_⟩
  simp only [encode, formatA_bit]; interval_cases i <;> simp

theorem EncodingRow.shi (rD rA : RegIdx) (imm16 : BitVec 16) : EncodingRow.Statement (.shi rD rA imm16) := by
  refine ⟨⟨.shi, 0xF4000000#32, 0xFC000000#32⟩, by decide, rfl, row_matches_of_bits _ _ fun i hi => ?_⟩
  simp only [encode, formatB_bit]; interval_cases i <;> simp

theorem EncodingRow.mfs (rD : RegIdx) (sel : BitVec 14) : EncodingRow.Statement (.mfs rD sel) := by
  refine ⟨⟨.mfs, 0x94008000#32, 0xFC1FC000#32⟩, by decide, rfl, row_matches_of_bits _ _ fun i hi => ?_⟩
  simp only [encode, formatS_bit]; interval_cases i <;> simp

theorem EncodingRow.msrclr (rD : RegIdx) (imm15 : BitVec 15) : EncodingRow.Statement (.msrclr rD imm15) := by
  refine ⟨⟨.msrclr, 0x94110000#32, 0xFC1F8000#32⟩, by decide, rfl, row_matches_of_bits _ _ fun i hi => ?_⟩
  simp only [encode, formatM_bit]; interval_cases i <;> simp

theorem EncodingRow.pcmpbf (rD rA rB : RegIdx) : EncodingRow.Statement (.pcmpbf rD rA rB) := by
  refine ⟨⟨.pcmpbf, 0x80000400#32, 0xFC0007FF#32⟩, by decide, rfl, row_matches_of_bits _ _ fun i hi => ?_⟩
  simp only [encode, formatA_bit]; interval_cases i <;> simp

theorem EncodingRow.pcmpeq (rD rA rB : RegIdx) : EncodingRow.Statement (.pcmpeq rD rA rB) := by
  refine ⟨⟨.pcmpeq, 0x88000400#32, 0xFC0007FF#32⟩, by decide, rfl, row_matches_of_bits _ _ fun i hi => ?_⟩
  simp only [encode, formatA_bit]; interval_cases i <;> simp

theorem EncodingRow.sext8 (rD rA : RegIdx) : EncodingRow.Statement (.sext8 rD rA) := by
  refine ⟨⟨.sext8, 0x90000060#32, 0xFC00FFFF#32⟩, by decide, rfl, row_matches_of_bits _ _ fun i hi => ?_⟩
  simp only [encode, formatB_bit]; interval_cases i <;> simp

end Sys2Proof.Laws
end

