-- ==== Sys2Proof/Laws/Pipeline.lean ====
section
/-! SUPPORT. Everything `exec`, operand finalisation, the step of the execute slot, the controller's tick and the machine's step can
do, said once each. -/

namespace Sys2Proof.Machine

/-- Everything a conditional branch writes: PC and the status. -/
theorem branchIf_spec (s : State) (c : Bool) (o : Word) :
    ∃ p st, s.branchIf c o = { s with pc := p, status := st } := by
  unfold State.branchIf
  split
  · exact ⟨_, _, rfl⟩
  · exact ⟨s.pc, _, rfl⟩

/-- What a half-word load may change. -/
theorem loadHalf_keeps {s t : State} {ea : Word} {rD : RegIdx} (h : s.loadHalf ea rD = .next t) :
    ∃ g e x m pd ds bs j st,
      t = { s with gpr := g, ear := e, esr := x, mem := m, pend := pd, devices := ds, rxBytes := bs, rxPulled := j,
                   status := st } := by
  obtain ⟨r, u, hb, rfl⟩ := loadHalf_next h
  obtain ⟨mm, pp, dd, bb, jj, rfl⟩ := bus_keeps hb
  obtain ⟨g, e, x, st, hw⟩ := afterWait_keeps
    { s with mem := mm, pend := pp, devices := dd, rxBytes := bb, rxPulled := jj } ea rD false r
  exact ⟨g, e, x, mm, pp, dd, bb, jj, st, hw⟩

/-- What a half-word store may change. -/
theorem storeHalf_keeps {s t : State} {ea : Word} {rD : RegIdx} (h : s.storeHalf ea rD = .next t) :
    ∃ g e x m pd ds bs j st,
      t = { s with gpr := g, ear := e, esr := x, mem := m, pend := pd, devices := ds, rxBytes := bs, rxPulled := j,
                   status := st } := by
  obtain ⟨r, u, hb, rfl⟩ := storeHalf_next h
  obtain ⟨mm, pp, dd, bb, jj, rfl⟩ := bus_keeps hb
  obtain ⟨g, e, x, st, hw⟩ := afterWait_keeps
    { s with mem := mm, pend := pp, devices := dd, rxBytes := bb, rxPulled := jj } ea rD true r
  exact ⟨g, e, x, mm, pp, dd, bb, jj, st, hw⟩

/-- What `exec` may change, whatever the instruction: general registers, PC, MSR, EAR, ESR, the prefix state, the image, PEND, the
device registers, RX_SOURCE and the status. -/
theorem exec_keeps {i : Instr} {s t : State} (h : exec i s = .next t) :
    ∃ g p m e x u ip mem pd ds bs j st,
      t = { s with gpr := g, pc := p, msr := m, ear := e, esr := x, uimm := u, immPend := ip, mem := mem, pend := pd,
                   devices := ds, rxBytes := bs, rxPulled := j, status := st } := by
  cases i with
  | beqi rA imm16 =>
    obtain ⟨p, st, hb⟩ := branchIf_spec s (s.isZero rA) (s.imm32 imm16)
    simp only [exec, execBeqi, hb] at h; cases h
    exact ⟨_, _, _, _, _, _, _, _, _, _, _, _, _, rfl⟩
  | blt rA rB =>
    obtain ⟨p, st, hb⟩ := branchIf_spec s (s.isNegative rA) (s.reg rB)
    simp only [exec, execBlt, hb] at h; cases h
    exact ⟨_, _, _, _, _, _, _, _, _, _, _, _, _, rfl⟩
  | lhu rD rA rB =>
    obtain ⟨g, e, x, mm, pp, dd, bb, jj, st, rfl⟩ := loadHalf_keeps h
    exact ⟨_, _, _, _, _, _, _, _, _, _, _, _, _, rfl⟩
  | lhui rD rA imm16 =>
    obtain ⟨g, e, x, mm, pp, dd, bb, jj, st, rfl⟩ := loadHalf_keeps h
    exact ⟨_, _, _, _, _, _, _, _, _, _, _, _, _, rfl⟩
  | sh rD rA rB =>
    obtain ⟨g, e, x, mm, pp, dd, bb, jj, st, rfl⟩ := storeHalf_keeps h
    exact ⟨_, _, _, _, _, _, _, _, _, _, _, _, _, rfl⟩
  | shi rD rA imm16 =>
    obtain ⟨g, e, x, mm, pp, dd, bb, jj, st, rfl⟩ := storeHalf_keeps h
    exact ⟨_, _, _, _, _, _, _, _, _, _, _, _, _, rfl⟩
  | mfs rD sel =>
    simp only [exec, execMfs] at h
    split at h <;> cases h <;> exact ⟨_, _, _, _, _, _, _, _, _, _, _, _, _, rfl⟩
  | addik rD rA imm16 => simp only [exec, execAddik] at h; cases h; exact ⟨_, _, _, _, _, _, _, _, _, _, _, _, _, rfl⟩
  | imm imm16 => simp only [exec, execImm] at h; cases h; exact ⟨_, _, _, _, _, _, _, _, _, _, _, _, _, rfl⟩
  | bralid rD imm16 => simp only [exec, execBralid] at h; cases h; exact ⟨_, _, _, _, _, _, _, _, _, _, _, _, _, rfl⟩
  | msrclr rD imm15 => simp only [exec, execMsrclr] at h; cases h; exact ⟨_, _, _, _, _, _, _, _, _, _, _, _, _, rfl⟩
  | pcmpbf rD rA rB => simp only [exec, execPcmpbf] at h; cases h; exact ⟨_, _, _, _, _, _, _, _, _, _, _, _, _, rfl⟩
  | pcmpeq rD rA rB => simp only [exec, execPcmpeq] at h; cases h; exact ⟨_, _, _, _, _, _, _, _, _, _, _, _, _, rfl⟩
  | sext8 rD rA => simp only [exec, execSext8] at h; cases h; exact ⟨_, _, _, _, _, _, _, _, _, _, _, _, _, rfl⟩

/-- Everything operand finalisation can answer (40_engine.md R142). -/
theorem finalise_next {s u : State} {inst r : Inst} (h : s.finalise inst = .next (r, u)) :
    (inst.kind.consumesImmediate = true ∧ s.immPend = true ∧
      r = { inst with upper := some (s.uimm.extractLsb' 16 16) } ∧ u = { s with immPend := false }) ∨
    (inst.kind.consumesImmediate = true ∧ s.immPend = false ∧ r = { inst with upper := none } ∧ u = s) ∨
    (inst.kind.consumesImmediate = false ∧ s.immPend = false ∧ r = inst ∧ u = s) := by
  unfold State.finalise at h
  split at h
  · split at h <;> cases h
    · exact .inl ⟨by assumption, by assumption, rfl, rfl⟩
    · exact .inr (.inl ⟨by assumption, by simp_all, rfl, rfl⟩)
  · split at h <;> cases h
    exact .inr (.inr ⟨by simp_all, by simp_all, rfl, rfl⟩)

/-- Everything the filling of EX can answer (40_engine.md R138). -/
theorem fillEx_next {s t : State} (h : s.fillEx = .next t) :
    (s.de = none ∧ t = { s with ex := none }) ∨
    (∃ inst r u, s.de = some inst ∧ s.finalise inst = .next (r, u) ∧ t = { u with ex := some r }) := by
  unfold State.fillEx at h
  split at h
  · cases h; exact .inl ⟨by assumption, rfl⟩
  · obtain ⟨ru, h1, h2⟩ := andThen_next.mp h
    cases h2
    exact .inr ⟨_, ru.1, ru.2, by assumption, h1, rfl⟩

/-- Everything an advance can answer (40_engine.md R138). -/
theorem advance_next {s t : State} (h : s.advance = .next t) :
    ∃ u, s.retire.fillEx = .next u ∧ t = u.shiftFetch := by
  obtain ⟨u, h1, h2⟩ := andThen_next.mp h
  cases h2
  exact ⟨u, h1, rfl⟩

/-- Everything the controller can do with a status (40_engine.md R137 to R141). -/
theorem settle_next {s t : State} (h : s.settle = .next t) :
    (s.status = .normal ∧ s.advance = .next t) ∨ (s.status = .jump ∧ t = s.flush) ∨
    (s.status ≠ .normal ∧ s.status ≠ .jump ∧ t = s) := by
  unfold State.settle at h
  split at h
  · exact .inl ⟨by assumption, h⟩
  · cases h; exact .inr (.inl ⟨by assumption, rfl⟩)
  all_goals cases h; exact .inr (.inr ⟨by simp_all, by simp_all, rfl⟩)

/-- Everything the step of the execute slot can answer (40_engine.md R131). -/
theorem stepEx_next {s t : State} (h : s.stepEx = .next t) :
    (s.ex = none ∧ t = s.withStatus .normal) ∨
    (∃ inst, s.ex = some inst ∧ s.cfg.exitAddr = some inst.ipc ∧ t = s.withStatus .stop) ∨
    (∃ inst w, s.ex = some inst ∧ s.cfg.exitAddr ≠ some inst.ipc ∧ inst.kind = .illegal w ∧ t = s.withStatus .illegal) ∨
    (∃ inst i, s.ex = some inst ∧ s.cfg.exitAddr ≠ some inst.ipc ∧ inst.kind = .instr i ∧ 1 < (s.begun inst).cnt ∧
      t = { s with ex := some { s.begun inst with cnt := (s.begun inst).cnt - 1 }, status := .stall }) ∨
    (∃ inst i, s.ex = some inst ∧ s.cfg.exitAddr ≠ some inst.ipc ∧ inst.kind = .instr i ∧ ¬ 1 < (s.begun inst).cnt ∧
      exec i { s with ex := some { s.begun inst with cnt := 1 } } = .next t) := by
  unfold State.stepEx at h
  split at h
  · cases h; exact .inl ⟨by assumption, rfl⟩
  · rename_i inst hex
    split at h
    · cases h; exact .inr (.inl ⟨inst, hex, by assumption, rfl⟩)
    · rename_i hne
      split at h
      · cases h
      · rename_i w hk
        cases h
        exact .inr (.inr (.inl ⟨inst, w, hex, hne, hk, rfl⟩))
      · rename_i i hk
        unfold State.stepInstr at h
        simp only at h
        split at h
        · rename_i hc
          cases h
          exact .inr (.inr (.inr (.inl ⟨inst, i, hex, hne, hk, hc, rfl⟩)))
        · rename_i hc
          exact .inr (.inr (.inr (.inr ⟨inst, i, hex, hne, hk, hc, h⟩)))

/-- What the step of the execute slot may change: what `exec` may, and the instance in EX. -/
theorem stepEx_keeps {s t : State} (h : s.stepEx = .next t) :
    ∃ g p m e x u ip mem pd ds bs j st ex,
      t = { s with gpr := g, pc := p, msr := m, ear := e, esr := x, uimm := u, immPend := ip, mem := mem, pend := pd,
                   devices := ds, rxBytes := bs, rxPulled := j, status := st, ex := ex } := by
  rcases stepEx_next h with ⟨-, rfl⟩ | ⟨_, -, -, rfl⟩ | ⟨_, _, -, -, -, rfl⟩ | ⟨_, _, -, -, -, -, rfl⟩ | ⟨_, _, -, -, -, -, h⟩
  · exact ⟨_, _, _, _, _, _, _, _, _, _, _, _, _, _, rfl⟩
  · exact ⟨_, _, _, _, _, _, _, _, _, _, _, _, _, _, rfl⟩
  · exact ⟨_, _, _, _, _, _, _, _, _, _, _, _, _, _, rfl⟩
  · exact ⟨_, _, _, _, _, _, _, _, _, _, _, _, _, _, rfl⟩
  · obtain ⟨g, p, m, e, x, u, ip, mem, pd, ds, bs, j, st, rfl⟩ := exec_keeps h
    exact ⟨_, _, _, _, _, _, _, _, _, _, _, _, _, _, rfl⟩

/-- What the filling of EX may change: EX and IMMPEND (40_engine.md R142). -/
theorem fillEx_keeps {s t : State} (h : s.fillEx = .next t) : ∃ ip ex, t = { s with immPend := ip, ex := ex } := by
  rcases fillEx_next h with ⟨-, rfl⟩ | ⟨_, _, _, -, hf, rfl⟩
  · exact ⟨_, _, rfl⟩
  · rcases finalise_next hf with ⟨-, -, -, rfl⟩ | ⟨-, -, -, rfl⟩ | ⟨-, -, -, rfl⟩ <;> exact ⟨_, _, rfl⟩

/-- Everything the controller's tick can answer (40_engine.md R137). -/
theorem cpuTick_next {s t : State} (h : s.cpuTick = .next t) :
    (s.acceptsInterrupt = true ∧ t = s.interruptEntry) ∨
    (s.acceptsInterrupt = false ∧ ∃ u, s.stepEx = .next u ∧ u.settle = .next t) := by
  unfold State.cpuTick at h
  split at h
  · cases h; exact .inl ⟨by assumption, rfl⟩
  · exact .inr ⟨by simp_all, andThen_next.mp h⟩

/-- In a configuration that may run an instruction has four bytes (30_encoding.md R100). -/
theorem instrBytes_of_wf {c : Config} (h : c.wf = true) : instrBytes c = 4 := by
  have and_left {a b : Bool} (h : (a && b) = true) : a = true := (Bool.and_eq_true_iff.mp h).1
  have length : c.ilen = 32 := of_decide_eq_true (and_left (and_left (and_left (and_left (and_left h)))))
  exact congrArg (· / 8) length

/-- There, an advance moves PC on by 4 (40_engine.md R138). -/
theorem shiftFetch_pc_of_wf {s : State} (h : s.cfg.wf = true) : s.shiftFetch.pc = s.pc + 4 := by
  rw [State.shiftFetch_pc, instrBytes_of_wf h]
  rfl

/-- Everything a step can answer (70_reset_and_hazards.md R300, 40_engine.md R146). -/
theorem step_next {s t : State} (h : step s = .next t) :
    s.cfg.wf = true ∧
    ((s.rst = true ∧ t = s.resetOp) ∨ (s.rst = false ∧ ∃ u, s.cpuTick = .next u ∧ t = u.endCycle)) := by
  unfold step at h
  split at h
  · refine ⟨by assumption, ?_⟩
    split at h
    · cases h; exact .inl ⟨by assumption, rfl⟩
    · obtain ⟨u, h1, h2⟩ := andThen_next.mp h
      cases h2
      exact .inr ⟨by simp_all, u, h1, rfl⟩
  · cases h

/-- A begun instance keeps its kind, its address and its prefix, and is started. -/
theorem begun_spec (s : State) (inst : Inst) :
    (s.begun inst).kind = inst.kind ∧ (s.begun inst).ipc = inst.ipc ∧ (s.begun inst).upper = inst.upper ∧
    (s.begun inst).clat = inst.clat ∧ (s.begun inst).started = true := by
  unfold State.begun
  split <;> simp_all

/-- Retirement writes MSR (its delay-slot bit), the delay-slot mark and RETIRED, and nothing else (40_engine.md R143). -/
theorem retire_spec (s : State) : ∃ m d n, s.retire = { s with msr := m, dsArmed := d, retired := n } := by
  unfold State.retire
  split
  · exact ⟨s.msr, s.dsArmed, s.retired, rfl⟩
  · unfold State.clearDelaySlotBit
    split
    · exact ⟨s.msr, s.dsArmed, _, rfl⟩
    · split
      · exact ⟨s.msr, _, _, rfl⟩
      · split
        · exact ⟨_, _, _, rfl⟩
        · exact ⟨s.msr, s.dsArmed, _, rfl⟩

end Sys2Proof.Machine
end

