-- ==== Sys2Proof/Laws/Registers.lean ====
section
/-! SUPPORT. What a register write does to every register read (10_state.md R20, R21), and the frame of an instruction that writes
one register. -/

namespace Sys2Proof.Machine

@[simp] theorem State.writeReg_hardwired (s : State) (r q : RegIdx) (v : Word) :
    (s.writeReg r v).hardwired q = s.hardwired q := rfl

@[simp] theorem State.withStatus_hardwired (s : State) (st : Status) (q : RegIdx) :
    (s.withStatus st).hardwired q = s.hardwired q := rfl

@[simp] theorem State.withStatus_reg (s : State) (st : Status) (q : RegIdx) : (s.withStatus st).reg q = s.reg q := rfl

@[simp] theorem State.jumpTo_reg (s : State) (a : Word) (q : RegIdx) : (s.jumpTo a).reg q = s.reg q := rfl

@[simp] theorem State.emptySlots_reg (s : State) (q : RegIdx) : s.emptySlots.reg q = s.reg q := rfl

/-- Two states with the same registers and the same configuration read alike. -/
theorem State.reg_congr {s t : State} (hc : t.cfg = s.cfg) (hg : t.gpr = s.gpr) (q : RegIdx) : t.reg q = s.reg q := by
  simp [State.reg, State.hardwired, State.stored, hc, hg]

/-- The hardwired register reads 0 (R21). -/
theorem State.reg_of_hardwired {s : State} {r : RegIdx} (h : s.hardwired r = true) : s.reg r = 0 := by
  simp [State.reg, h]

/-- The written register reads the value, or 0 where it is hardwired. -/
theorem State.reg_writeReg_self (s : State) (r : RegIdx) (v : Word) :
    (s.writeReg r v).reg r = if s.hardwired r then 0 else v := by
  by_cases h : s.hardwired r <;> simp [State.reg, State.writeReg, State.stored, State.hardwired] <;>
    simp_all [State.hardwired]

/-- Another register reads as before. -/
theorem State.reg_writeReg_ne (s : State) {r q : RegIdx} (v : Word) (h : q ≠ r) : (s.writeReg r v).reg q = s.reg q := by
  have hn : r.toNat ≠ q.toNat := fun e => h (BitVec.eq_of_toNat_eq e.symm)
  by_cases hh : s.hardwired r
  · have hw : s.writeReg r v = s := by simp [State.writeReg, hh]
    rw [hw]
  · simp only [State.reg, State.writeReg_hardwired, State.stored]
    simp [State.writeReg, hh, hn]

/-- A register write and a status are all that `WritesOnly` allows but MSR. -/
theorem writesOnly_writeReg (s : State) (rD : RegIdx) (v : Word) (m : Word) :
    WritesOnly rD v s ({ s.writeReg rD v with msr := m }.withStatus .normal) := by
  refine ⟨?_, ?_, rfl, rfl, ⟨rfl, rfl, rfl, rfl⟩, ⟨rfl, rfl⟩, fun _ => rfl, ⟨rfl, rfl, rfl, rfl, rfl⟩, ⟨rfl, rfl, rfl, rfl⟩,
    ⟨rfl, rfl, rfl, rfl, rfl, rfl⟩⟩
  · exact (State.reg_congr (s := s.writeReg rD v) rfl rfl rD).trans (s.reg_writeReg_self rD v)
  · intro q hq
    exact (State.reg_congr (s := s.writeReg rD v) rfl rfl q).trans (s.reg_writeReg_ne v (by simpa using hq))

end Sys2Proof.Machine
end

