-- ==== Sys2Proof/Tests/Slice0.lean ====
section
/-! SUPPORT. Tests: the well-formedness smoke, decoding, one step of each instruction, the bus, the devices, interrupts and run
control, and a witness for every statement with hypotheses. Expected results are the vectors of 95_test_vectors.md unless a
comment names another rule. -/

namespace Sys2Proof.Tests

set_option Elab.async false

open Sys2Proof Sys2Proof.Machine

/-! ### Well-formedness: each check refuses an ill-formed term -/

theorem test_wf_default : Config.default.wf = true := by decide
theorem test_wf_length : ({ Config.default with ilen := 16 } : Config).lengthOk = false := by decide
theorem test_wf_latency_zero : Latency.wf ⟨1, 0⟩ = false := by decide
theorem test_wf_lmb_latency_zero : ({ Config.default with lmbLat := ⟨0, 1⟩ } : Config).latenciesOk = false := by decide
theorem test_wf_opb_latency_zero : ({ Config.default with opbLat := ⟨1, 0⟩ } : Config).latenciesOk = false := by decide
theorem test_wf_map_latency_zero : ({ Config.default with mapLat := ⟨0, 0⟩ } : Config).latenciesOk = false := by decide
theorem test_wf_lat_zero : ({ Config.default with lat := [(.sh, 0)] } : Config).latenciesOk = false := by decide
theorem test_wf_clat_zero : ({ Config.default with clat := [(.blt, 0)] } : Config).latenciesOk = false := by decide
theorem test_wf_mask_two_bits : ({ Config.default with msrIe := 0x3#32 } : Config).masksOk = false := by decide
theorem test_wf_mask_no_bit : ({ Config.default with msrDs := 0x0#32 } : Config).masksOk = false := by decide
theorem test_wf_masks_equal : ({ Config.default with msrC := 0x2#32 } : Config).masksOk = false := by decide
theorem test_wf_bounds_low : Bounds.wf ⟨0x2#32, 0xFFFF#32⟩ = false := by decide
theorem test_wf_bounds_high : ({ Config.default with opb := some ⟨0x40000000#32, 0x40000010#32⟩ } : Config).boundsOk = false := by
  decide

/-- A byte-stream device whose four registers lie at the addresses given. -/
def streamAt (ctrl status rx tx : Word) : DeviceCfg :=
  ⟨"bs", .byteStream, [(.ctrl, ctrl), (.status, status), (.rx, rx), (.tx, tx)], ⟨1, 1⟩⟩

theorem test_wf_device_latency_zero :
    ({ Config.default with devices := [{ streamAt 0x40000000 0x40000004 0x40000008 0x4000000C with lat := ⟨0, 1⟩ }] } : Config).latenciesOk
      = false := by decide
theorem test_wf_register_missing : DeviceCfg.registersDeclared ⟨"bs", .byteStream, [(.ctrl, 0x40000000#32)], ⟨1, 1⟩⟩ = false := by
  decide
theorem test_wf_register_foreign :
    DeviceCfg.registersDeclared ⟨"bs", .byteStream, [(.ctrl, 0), (.status, 4), (.rx, 8), (.tcr0, 12)], ⟨1, 1⟩⟩ = false := by decide
theorem test_wf_register_misaligned :
    ({ Config.default with devices := [streamAt 0x40000000 0x40000004 0x40000008 0x4000000E] } : Config).addressesOk = false := by
  decide
theorem test_wf_register_in_local_fast :
    ({ Config.default with devices := [streamAt 0x100 0x40000004 0x40000008 0x4000000C] } : Config).addressesOk = false := by
  decide
theorem test_wf_register_address_twice :
    ({ Config.default with devices := [streamAt 0x40000000 0x40000004 0x40000004 0x4000000C] } : Config).addressesOk = false := by
  decide
theorem test_wf_addrs_distinct : addrsDistinct [0x4#32, 0x8#32, 0x4#32] = false := by decide
theorem test_wf_image_outside : Config.default.launchOk [(0x50000000, 0x00#8)] false = false := by decide
theorem test_wf_image_beyond_space : Config.default.launchOk [(2 ^ 32, 0x00#8)] false = false := by decide
theorem test_wf_image_inside : Config.default.launchOk [(0x10, 0x00#8), (0x4000FFFF, 0x01#8)] false = true := by decide
theorem test_wf_exit_missing : Config.default.launchOk [] true = false := by decide
theorem test_wf_memory_order : Memory.wf [(8, 1#8), (4, 2#8)] = false := by decide
theorem test_wf_memory_twice : Memory.wf [(4, 1#8), (4, 2#8)] = false := by decide
theorem test_wf_memory_beyond : Memory.wf [(2 ^ 32, 1#8)] = false := by decide

/-! ### Decoding: the words of vectors V30.1 to V30.20 -/

theorem test_decode_addik : decodeWord 0x3063FFFF#32 = .ok (.addik 3 3 0xFFFF#16) := by decide
theorem test_decode_imm : decodeWord 0xB0001234#32 = .ok (.imm 0x1234#16) := by decide
theorem test_decode_beqi : decodeWord 0xBC030008#32 = .ok (.beqi 3 0x0008#16) := by decide
theorem test_decode_blt : decodeWord 0x9C453000#32 = .ok (.blt 5 6) := by decide
theorem test_decode_bralid : decodeWord 0xB9FC0008#32 = .ok (.bralid 15 0x0008#16) := by decide
theorem test_decode_lhu : decodeWord 0xC5050000#32 = .ok (.lhu 8 5 0) := by decide
theorem test_decode_lhui : decodeWord 0xE4E50002#32 = .ok (.lhui 7 5 0x0002#16) := by decide
theorem test_decode_sh : decodeWord 0xD4C51000#32 = .ok (.sh 6 5 2) := by decide
theorem test_decode_shi : decodeWord 0xF4C50002#32 = .ok (.shi 6 5 0x0002#16) := by decide
theorem test_decode_mfs : decodeWord 0x94608001#32 = .ok (.mfs 3 0x0001#14) := by decide
theorem test_decode_msrclr : decodeWord 0x94710006#32 = .ok (.msrclr 3 0x0006#15) := by decide
theorem test_decode_pcmpbf : decodeWord 0x81463C00#32 = .ok (.pcmpbf 10 6 7) := by decide
theorem test_decode_pcmpeq : decodeWord 0x89673C00#32 = .ok (.pcmpeq 11 7 7) := by decide
theorem test_decode_sext8 : decodeWord 0x91270060#32 = .ok (.sext8 9 7) := by decide
theorem test_reject_zero : decodeWord 0x00000000#32 = .error .unknownOp := by decide
theorem test_reject_ones : decodeWord 0xFFFFFFFF#32 = .error .unknownOp := by decide
theorem test_reject_function : decodeWord 0x81463C01#32 = .error .reservedFunction := by decide
theorem test_reject_extension : decodeWord 0x91270061#32 = .error .reservedExtension := by decide
theorem test_reject_imm_fields : decodeWord 0xB0211234#32 = .error .immFieldsNotZero := by decide
theorem test_reject_special : decodeWord 0x9460C001#32 = .error .reservedSpecialForm := by decide
/-- BEQI's op with condition code 00001 (30_encoding.md R106). -/
theorem test_reject_condition : decodeWord 0xBC230008#32 = .error .reservedCondition := by decide
/-- BRALID's op with branch type 11101 (30_encoding.md R106). -/
theorem test_reject_branch_type : decodeWord 0xB9FD0008#32 = .error .reservedBranchType := by decide
theorem test_decode_truncated : decodeBytes [0x30#8, 0x63#8, 0xFF#8] = .error .truncated := by decide
theorem test_decode_bytes : decodeBytes [0x30#8, 0x63#8, 0xFF#8, 0xFF#8, 0xB0#8] = .ok (.addik 3 3 0xFFFF#16, [0xB0#8]) := by decide
theorem test_encode_blt : encode (.blt 5 6) = 0x9C453000#32 := by decide

/-! ### Small states -/

/-- The convention of 95_test_vectors.md: no bus-peripheral region, no device. -/
def plain : Config := { Config.default with opb := none, devices := [] }

/-- IMAGE[0x100] = 0xAABBCCDD. -/
def word100 : Memory := [(0x100, 0xAA#8), (0x101, 0xBB#8), (0x102, 0xCC#8), (0x103, 0xDD#8)]

/-- An unstarted instance of latency 1. -/
def instOf (i : Instr) (ipc : Word) : Inst :=
  ⟨.instr i, ipc, 1, InstKind.clat plain (.instr i), 1, false, none⟩

/-- A state with one instruction in the execute slot and some registers set. -/
def start (c : Config) (i : Instr) (ipc : Word) (regs : List (RegIdx × Word)) : State :=
  regs.foldl (fun s p => s.writeReg p.1 p.2) { State.powerOn c word100 with ex := some (instOf i ipc), pc := ipc + 12 }

/-- A part of the next state. -/
def got {α : Type} (o : Host.Outcome State Fault Refusal) (f : State → α) : Option α :=
  match o with
  | .next s => some (f s)
  | _ => none

/-- The fault, if the outcome is one. -/
def faultOf (o : Host.Outcome State Fault Refusal) : Option Fault :=
  match o with
  | .fault r => some r
  | _ => none

/-- The refusal, if the outcome is one. -/
def refusalOf (o : Host.Outcome State Fault Refusal) : Option Refusal :=
  match o with
  | .refused r => some r
  | _ => none

/-! ### One step of each instruction -/

/-- V41.1. -/
theorem test_addik_minus_one : got (step (start plain (.addik 3 3 0xFFFF) 0 [(3, 3)])) (fun t => (t.reg 3, t.status)) = some (2, .normal) := by
  decide +kernel
/-- V41.5: the assembled immediate is not sign-extended. -/
theorem test_addik_prefixed :
    got (step { start plain (.addik 5 0 0x8000) 0 [] with ex := some { instOf (.addik 5 0 0x8000) 0 with upper := some 1 } })
      (fun t => t.reg 5) = some 0x00018000 := by decide +kernel
/-- V41.6. -/
theorem test_imm_joins :
    got (step { start plain (.imm 0x1234) 0 [] with de := some (instOf (.addik 6 0 0x5678) 4) })
      (fun t => (t.uimm, t.immPend, t.ex.map Inst.upper)) = some (0x12340000, false, some (some 0x1234)) := by decide +kernel
/-- U1: an IMM before an instruction that takes no immediate. -/
theorem test_imm_without_consumer :
    refusalOf (step { start plain (.imm 0x1234) 0 [] with de := some (instOf (.blt 5 6) 4) }) = some (.prefixWithoutConsumer 4) := by
  decide +kernel
/-- V42.1. -/
theorem test_beqi_taken :
    got (step (start plain (.beqi 3 8) 0x10 [])) (fun t => (t.pc, t.status, t.ex, t.retired)) = some (0x18, .jump, none, 1) := by
  decide +kernel
/-- V42.2: not taken, and the next fetch goes on. -/
theorem test_beqi_not_taken :
    got (step (start plain (.beqi 3 8) 0x10 [(3, 1)])) (fun t => (t.pc, t.status)) = some (0x20, .normal) := by decide +kernel
/-- V42.6. -/
theorem test_blt_taken :
    got (step (start plain (.blt 5 6) 0x20 [(5, 0x80000000), (6, 0xFFFFFFF0)])) (fun t => (t.pc, t.status)) = some (0x10, .jump) := by
  decide +kernel
/-- V42.5. -/
theorem test_blt_not_taken : got (step (start plain (.blt 6 6) 0x18 [(6, 0x10)])) (fun t => t.status) = some .normal := by decide +kernel
/-- V42.9. -/
theorem test_bralid :
    got (step { start plain (.bralid 15 0x40) 0x14 [] with msr := 2 }) (fun t => (t.reg 15, t.msr, t.pc)) = some (0x14, 0x8002, 0x40) := by
  decide +kernel
/-- U5, DS_CLEAR = next_retire: the bit falls when the instruction after the BRALID retires. -/
theorem test_bralid_next_retire :
    got (step { start { plain with dsClear := .nextRetire } (.addik 0 0 0) 8 [] with msr := 0x8000, dsArmed := true })
      (fun t => t.msr) = some 0 := by decide +kernel
/-- V43.1, at the base plus an index. -/
theorem test_lhu_zero_extends : got (step (start plain (.lhu 7 5 0) 0 [(5, 0x100)])) (fun t => t.reg 7) = some 0x0000AABB := by
  decide +kernel
/-- A half-word the image does not hold (20_memory.md R73, U2). -/
theorem test_lhu_absent : faultOf (step (start plain (.lhu 7 5 0) 0 [(5, 0x104)])) = some (.uninitialisedRead 0x104) := by
  decide +kernel
/-- V43.2. -/
theorem test_lhui : got (step (start plain (.lhui 7 5 2) 0 [(5, 0x100)])) (fun t => t.reg 7) = some 0x0000CCDD := by decide +kernel
/-- V43.3. -/
theorem test_lhui_unaligned :
    got (step (start plain (.lhui 12 5 1) 0 [(5, 0x100)])) (fun t => (t.status, t.ear, t.esr, t.retired)) =
      some (.memUnaligned, 0x101, 0x181, 0) := by decide +kernel
/-- The example of 43_load_store.md R193. -/
theorem test_sh :
    got (step (start plain (.sh 6 5 2) 0 [(5, 0x100), (6, 0x12345678), (2, 2)])) (fun t => t.mem) =
      some [(0x100, 0xAA#8), (0x101, 0xBB#8), (0x102, 0x56#8), (0x103, 0x78#8)] := by decide +kernel
/-- The generic mapped fallback with no register (20_memory.md R72, U3). -/
theorem test_sh_unmapped : faultOf (step (start plain (.sh 6 5 2) 0 [(5, 0x50000000)])) = some (.unmappedAccess 0x50000000) := by
  decide +kernel
/-- The corner case of 43_load_store.md R194. -/
theorem test_shi_unaligned :
    got (step (start plain (.shi 6 5 3) 0 [(5, 0x100)])) (fun t => (t.status, t.ear, t.esr)) = some (.memUnaligned, 0x103, 0x4C1) := by
  decide +kernel
/-- A store to TCSR0 commits in the device's tick of the same cycle (program P3, cycle 11). -/
theorem test_shi_device :
    got (step (start Config.default (.shi 4 3 2) 0 [(3, 0x80000000), (4, 0x21)])) (fun t => t.hostGet 0 .tcsr0) = some (some 0x21) := by
  decide +kernel
/-- V44.6. -/
theorem test_mfs_pc : got (step (start plain (.mfs 5 0) 8 [])) (fun t => t.reg 5) = some 8 := by decide +kernel
/-- V44.11. -/
theorem test_mfs_beyond_pvr :
    got (step (start plain (.mfs 4 0x200C) 0 [(4, 9)])) (fun t => (t.status, t.reg 4, t.retired)) = some (.illegal, 9, 0) := by
  decide +kernel
/-- V44.1. -/
theorem test_msrclr : got (step { start plain (.msrclr 3 6) 0 [] with msr := 0x8006 }) (fun t => (t.reg 3, t.msr)) = some (0x8006, 0x8004) := by
  decide +kernel
/-- V44.4. -/
theorem test_msrclr_all :
    got (step { start plain (.msrclr 3 0x7FFF) 0 [] with msr := 0x8007 }) (fun t => t.msr) = some 0x8004 := by decide +kernel
/-- V45.3. -/
theorem test_pcmpbf_second : got (step (start plain (.pcmpbf 1 2 3) 0 [(2, 0x12345678), (3, 0x00340078)])) (fun t => t.reg 1) = some 2 := by
  decide +kernel
/-- V45.5. -/
theorem test_pcmpbf_none : got (step (start plain (.pcmpbf 1 2 3) 0 [(2, 0x12345678), (3, 0x78563412)])) (fun t => t.reg 1) = some 0 := by
  decide +kernel
/-- V45.8. -/
theorem test_pcmpeq_equal : got (step (start plain (.pcmpeq 1 2 3) 0 [(2, 0x5678), (3, 0x5678)])) (fun t => t.reg 1) = some 1 := by
  decide +kernel
/-- V45.11. -/
theorem test_pcmpeq_unequal : got (step (start plain (.pcmpeq 1 2 3) 0 [(2, 0x80000000)])) (fun t => t.reg 1) = some 0 := by decide +kernel
/-- V45.13. -/
theorem test_sext8_negative : got (step (start plain (.sext8 1 2) 0 [(2, 0x80)])) (fun t => t.reg 1) = some 0xFFFFFF80 := by decide +kernel
/-- V45.14. -/
theorem test_sext8_positive : got (step (start plain (.sext8 1 2) 0 [(2, 0xFFFFFF7F)])) (fun t => t.reg 1) = some 0x7F := by decide +kernel
/-- V41.7. -/
theorem test_register_zero : got (step (start plain (.addik 0 4 1) 0 [(4, 9)])) (fun t => t.reg 0) = some 0 := by decide +kernel

/-! ### The host's placing of one instruction, and the run from reset -/

/-- V45.16's instruction, placed, is the very next thing that runs. -/
theorem test_with_fetch_word :
    got (step (State.reset.withFetchWord 32 0x91270060)) (fun t => (t.retired, t.status, t.reg 9)) = some (1, .normal, 0) := by
  decide +kernel
/-- From reset with nothing loaded three cycles step an empty slot (40_engine.md R150), then an absent word faults (R135). -/
theorem test_reset_run :
    got (runCycles 3 State.reset) (fun t => (t.cycle, t.retired, t.pc)) = some (3, 0, 12) ∧
      faultOf (runCycles 4 State.reset) = some (.noInstruction 0) := by decide +kernel

/-! ### The bus -/

/-- V20.1's first call: LMB_RD_LAT = 3. -/
theorem test_bus_first_call :
    (match ({ State.powerOn { plain with lmbLat := ⟨3, 3⟩ } word100 with pend := none }).bus .read .half 0x100 0 with
      | .next (r, t) => some (r, t.pend)
      | _ => none) = some (.access, some ⟨.read, .half, 0x100, 0, 2⟩) := by decide +kernel
/-- V20.6. -/
theorem test_bus_ready :
    (match (State.powerOn plain word100).bus .read .half 0x102 0 with | .next (r, _) => some r | _ => none) = some (.ready 0xCCDD) := by
  decide +kernel
/-- V20.4: misaligned words. -/
theorem test_bus_unaligned :
    (match (State.powerOn plain word100).bus .write .word 0x101 0 with | .next (r, t) => some (r, t.pend) | _ => none) =
      some (.unaligned, none) := by decide +kernel
/-- V20.8: the upper half-word of a device register. -/
theorem test_device_lane : lane true .half 0x80000000#32 0x000001D3#32 = 0 ∧ lane true .half 0x80000002#32 0x000001D3#32 = 0x1D3 := by
  decide
/-- V20.9: the staged value. -/
theorem test_device_merge : withLane true .half 0x80000002#32 0x000000D3#32 0x0021#32 = 0x00000021 := by decide

/-! ### Devices -/

/-- A TCSR with a committed value and the flags it shows. -/
def tcsrOf (v : Word) : Tcsr :=
  ⟨⟨v, 0, false⟩, { decodedFlags v false with tint := v.getLsbD 8, ent := v.getLsbD 7 }⟩

/-- Timer 0 with its three registers, timer 1 at reset. -/
def timerOf (tcsr tlr tcr : Word) : Timer := ⟨⟨tcsrOf tcsr, ⟨tlr, 0, false⟩, ⟨tcr, 0, false⟩⟩, TimerChannel.zero, false⟩

/-- Ticks of a timer. -/
def ticks : Nat → Timer → Timer
  | 0, t => t
  | n + 1, t => ticks n (t.tick plain)

/-- T1. -/
theorem test_put_update_get :
    (DevReg.zero.put 0x1234).get = 0 ∧ (DevReg.zero.put 0x1234).update.get = 0x1234 ∧ (DevReg.zero.put 0x1234).update.update.get = 0x1234 := by
  decide
/-- T2: up-count to the boundary, hold; `tint` set once. -/
theorem test_timer_up_hold :
    ((ticks 1 (timerOf 0x81 0 0xFFFFFFFE)).ch0.tcr.get, (ticks 1 (timerOf 0x81 0 0xFFFFFFFE)).ch0.tcsr.reg.get,
      (ticks 2 (timerOf 0x81 0 0xFFFFFFFE)).ch0.tcr.get, (ticks 2 (timerOf 0x81 0 0xFFFFFFFE)).ch0.tcsr.reg.get,
      (ticks 3 (timerOf 0x81 0 0xFFFFFFFE)).ch0.tcr.get) = (0xFFFFFFFF, 0x81, 0, 0x181, 0) := by decide +kernel
/-- T3: down-count, reload. -/
theorem test_timer_down_reload :
    ((ticks 1 (timerOf 0x93 5 1)).ch0.tcr.get, (ticks 1 (timerOf 0x93 5 1)).ch0.tcsr.reg.get, (ticks 2 (timerOf 0x93 5 1)).ch0.tcr.get) =
      (0, 0x193, 4) := by decide +kernel
/-- T4: the global enable reaches the sibling in the same update. -/
theorem test_global_enable :
    let r := (⟨(tcsrOf 0).reg.put 0x400, (tcsrOf 0).flags⟩ : Tcsr).update (tcsrOf 0)
    (r.1.reg.get, r.2.reg.get, r.2.flags.ent, r.2.flags.enall, r.2.reg.dirty) = (0x480, 0x480, true, true, false) := by decide +kernel
/-- V60.1 and V60.2: write-1-to-clear. -/
theorem test_write_one_clears :
    ((⟨(tcsrOf 0x1D3).reg.put 0x1D3, (tcsrOf 0x1D3).flags⟩ : Tcsr).update (tcsrOf 0)).1.reg.get = 0xD3 ∧
    ((⟨(tcsrOf 0x1D3).reg.put 0x0D3, (tcsrOf 0x1D3).flags⟩ : Tcsr).update (tcsrOf 0)).1.reg.get = 0x1D3 := by decide +kernel
/-- V60.5 and V60.6: LOAD alone, LOAD and ENT. -/
theorem test_timer_load : (ticks 2 (timerOf 0x21 5 0)).ch0.tcr.get = 5 ∧ (ticks 1 (timerOf 0xB1 5 0)).ch0.tcr.get = 6 := by decide +kernel
/-- V60.7: generate mode does not count. -/
theorem test_timer_generate : (ticks 2 (timerOf 0x80 0 7)).ch0.tcr.get = 7 := by decide +kernel
/-- R270: a byte stored to TX leaves in the next tick. -/
theorem test_transmit :
    let b := ((ByteStream.zero plain).putReg .tx 0x41).tick
    (b.tx.get, b.emitted, b.tick.emitted) = (0x41, some 0x41, none) := by decide +kernel

/-! ### Interrupts -/

/-- V61.2. -/
theorem test_interrupt_entry :
    got (step { State.powerOn plain word100 with irqAgg := 1, msr := 2, fe := some ⟨0x60, none⟩, pc := 0x64 })
      (fun t => (t.reg 14, t.msr, t.pc, t.status, t.retired)) = some (0x60, 0, 0x10, .jump, 0) := by decide +kernel
/-- V61.1: not accepted, the slot is stepped. -/
theorem test_interrupt_disabled :
    got (step { start plain (.addik 3 0 7) 0 [] with irqAgg := 1 }) (fun t => (t.reg 3, t.status)) = some (7, .normal) := by decide +kernel
/-- V61.4: not accepted behind a load that has begun. -/
theorem test_interrupt_waits :
    ({ start plain (.lhui 7 5 0) 0 [] with irqAgg := 1, msr := 2, ex := some { instOf (.lhui 7 5 0) 0 with started := true } } :
      State).acceptsInterrupt = false := by decide +kernel

/-! ### Witnesses: for every statement with hypotheses, states and operands that meet them, at the boundaries of each clause -/

/-- A word and an instruction for `DecodedWordReencodes`. -/
theorem witness_decoded_word : decodeWord 0x9C453000#32 = .ok (.blt 5 6) := by decide

/-- `StepRunsDecodedInstruction`, on a latency counter at its last tick. -/
theorem witness_step_runs_decoded :
    let s := start plain (.addik 3 3 0xFFFF) 0 [(3, 3)]
    let inst := instOf (.addik 3 3 0xFFFF) 0
    s.steps ∧ s.ex = some inst ∧ s.cfg.exitAddr ≠ some inst.ipc ∧ inst.kind = kindOf (some 0x3063FFFF#32) ∧
      decodeWord 0x3063FFFF#32 = .ok (.addik 3 3 0xFFFF#16) ∧ (s.begun inst).cnt ≤ 1 := by
  unfold State.steps; decide +kernel

/-- `FetchedWordReachesExecute`, its last clause: the word 0xAABBCCDD fetched at 0x100. -/
theorem witness_fetched_word :
    let s := { State.powerOn plain word100 with pc := 0x100 }
    s.cfg.wf = true ∧ s.rst = false ∧ s.msr &&& s.cfg.msrIe = 0 ∧ s.ex = none ∧ s.de = none ∧ s.fe = none ∧ s.immPend = false ∧
      s.fetch s.pc = some 0xAABBCCDD#32 := by decide +kernel

/-- `FetchedWordReachesExecute` and `NormalAdvancesThePipeline`, what a fetch reads: a word of the image, a misaligned address beside
it, the first address of the fallback, a word wholly absent, and one with one byte absent. -/
theorem witness_fetch_reads :
    let s := State.powerOn plain word100
    let u := { s with mem := s.mem.write 0x104 0x7F }
    plain.wf = true ∧
      (regionOf plain 0x100 ≠ .map ∧ (∀ k < 4, s.mem.read (0x100 + k) = some (wordByte plain.bigEndian k 0xAABBCCDD)) ∧
        s.fetch 0x100 = some 0xAABBCCDD#32) ∧
      ((0x102#32).toNat % 4 ≠ 0 ∧ s.fetch 0x102 = none) ∧ (regionOf plain 0x10000 = .map ∧ s.fetch 0x10000 = none) ∧
      (s.mem.read 0x104 = none ∧ s.fetch 0x104 = none) ∧
      (u.mem.read 0x104 = some 0x7F#8 ∧ u.mem.read 0x105 = none ∧ u.fetch 0x104 = none) := by decide +kernel

/-- `FetchedWordReachesExecute`, what decode builds: T6's BEQI with LAT = 2 and CLAT = 3, a mnemonic the table does not name, a word
that is no instruction, and an absent one. -/
theorem witness_decoded_from :
    let c := { plain with lat := [(.beqi, 2)], clat := [(.beqi, 3)] }
    (∀ e ∈ c.lat, e.1 = .beqi → e.2 = 2) ∧ (∀ e ∈ c.lat, e.1 ≠ .addik) ∧
      decodeWord 0xBC03001C#32 = .ok (.beqi 3 0x1C) ∧
      (let d := decodeSlot c ⟨4, some 0xBC03001C⟩; (d.lat, d.cnt, d.clat) = (2, 2, some 3)) ∧
      (let d := decodeSlot c ⟨4, some 0x3063FFFF⟩; (d.kind, d.lat, d.cnt, d.clat) = (.instr (.addik 3 3 0xFFFF), 1, 1, none)) ∧
      (decodeSlot c ⟨4, some 0⟩).kind = .illegal 0 ∧ (decodeSlot c ⟨4, none⟩).kind = .unfetchable := by decide +kernel

/-- `LatencyStallsThenFires`: an unconditional instruction of latency 3, whose k = 0 and k = 1 stall. -/
theorem witness_latency :
    let inst := { instOf (.addik 3 0 7) 0 with lat := 3, cnt := 3 }
    let s := { start plain (.addik 3 0 7) 0 [] with ex := some inst }
    s.steps ∧ s.ex = some inst ∧ s.cfg.exitAddr ≠ some inst.ipc ∧ inst.kind = .instr (.addik 3 0 7) ∧ inst.started = false ∧
      (if s.branchCondition inst.kind then inst.clat.getD inst.cnt else inst.cnt) = 3 := by unfold State.steps; decide +kernel

/-- The same for a conditional branch that holds: vector T6's CLAT = 3 with LAT = 2. -/
theorem witness_latency_conditional :
    let inst := { instOf (.beqi 3 0x1C) 4 with lat := 2, cnt := 2, clat := some 3 }
    let s := { start plain (.beqi 3 0x1C) 4 [] with ex := some inst }
    s.steps ∧ s.ex = some inst ∧ s.cfg.exitAddr ≠ some inst.ipc ∧ inst.kind = .instr (.beqi 3 0x1C) ∧ inst.started = false ∧
      (if s.branchCondition inst.kind then inst.clat.getD inst.cnt else inst.cnt) = 3 := by unfold State.steps; decide +kernel

/-- `ImmediateIsAssembled`, both clauses: with a prefix and without one. -/
theorem witness_immediate :
    (start plain (.addik 5 0 0x8000) 0 []).ex = some (instOf (.addik 5 0 0x8000) 0) ∧ (instOf (.addik 5 0 0x8000) 0).upper = none ∧
      ({ instOf (.addik 5 0 0x8000) 0 with upper := some 0xFFFF } : Inst).upper = some 0xFFFF := by decide +kernel

/-- `ImmPrefixJoinsNextInstruction`, both clauses: an ADDIK and a BLT behind the IMM. -/
theorem witness_imm_prefix :
    let s (next : Inst) := { start plain (.imm 0x1234) 0 [] with de := some next }
    let inst := instOf (.imm 0x1234) 0
    ((s (instOf (.addik 6 0 0x5678) 4)).fires inst (.imm 0x1234) ∧ (instOf (.addik 6 0 0x5678) 4).kind.consumesImmediate = true) ∧
    ((s (instOf (.blt 5 6) 4)).fires inst (.imm 0x1234) ∧ (instOf (.blt 5 6) 4).kind.consumesImmediate = false) := by
  unfold State.fires State.steps; decide +kernel

/-- `BeqiBranchesOnZero`, `BltBranchesOnNegative`, `BralidLinksAndJumps`, `MfsReadsSpecialRegister`: the slot holds an instance, and
the two tests are met and not met. -/
theorem witness_branches :
    (start plain (.beqi 3 8) 0x10 [(3, 1)]).ex = some (instOf (.beqi 3 8) 0x10) ∧ (start plain (.beqi 3 8) 0x10 [(3, 1)]).reg 3 ≠ 0 ∧
      (start plain (.beqi 3 8) 0x10 []).reg 3 = 0 ∧ ((start plain (.blt 5 6) 0 [(5, 0x80000000)]).reg 5).toInt < 0 ∧
      ¬ ((start plain (.blt 5 6) 0 [(5, 0x7FFFFFFF)]).reg 5).toInt < 0 := by decide +kernel

/-- `MfsReadsSpecialRegister`: a listed selector, and the first and the last PVR. -/
theorem witness_mfs :
    let s := start plain (.mfs 3 0x0003) 8 []
    let inst := instOf (.mfs 3 0x0003) 8
    s.ex = some inst ∧
      (0x0003#14, s.ear) ∈ [(0x0000#14, inst.ipc), (0x0001#14, s.msr), (0x0003#14, s.ear), (0x0005#14, s.esr), (0x0007#14, s.fsr),
        (0x000B#14, s.btr)] ∧
      (0x2000#14).toNat = 0x2000 + 0 ∧ s.cfg.pvr[0]? = some 0#32 ∧ (0x200B#14).toNat = 0x2000 + 11 ∧ s.cfg.pvr[11]? = some 0#32 := by
  decide +kernel

/-- `MfsUnknownSelectorIsIllegal`: below the PVRs, the first beyond them, and the last code. -/
theorem witness_mfs_unknown :
    let named := [0x0000#14, 0x0001#14, 0x0003#14, 0x0005#14, 0x0007#14, 0x000B#14]
    (0x0002#14 ∉ named ∧ 0x1FFF#14 ∉ named ∧ 0x200C#14 ∉ named ∧ 0x3FFF#14 ∉ named) ∧
      (0x0002#14).toNat < 0x2000 ∧ (0x1FFF#14).toNat < 0x2000 ∧ 0x2000 + plain.pvr.length ≤ (0x200C#14).toNat ∧
      0x2000 + plain.pvr.length ≤ (0x3FFF#14).toNat := by
  refine ⟨by decide, by decide, by decide, ?_, ?_⟩ <;> (show 0x2000 + 12 ≤ _; decide)

/-- `LoadReadsImageHalf`, LHU and LHUI, at the lower and the upper half-word of a word of the image. -/
theorem witness_load_image :
    let s := start plain (.lhu 7 5 0) 0 [(5, 0x100)]
    AccessOf false (.lhu 7 5 0) s 7 0x100 ∧ AccessCount false s 7 0x100 0 ∧ targetOf s.cfg 0x100 = .image ∧
      s.mem.read 0x100 = some 0xAA ∧ s.mem.read 0x101 = some 0xBB ∧
      AccessOf false (.lhui 7 5 2) s 7 0x102 ∧ AccessCount false s 7 0x102 0 ∧ targetOf s.cfg 0x102 = .image ∧
      s.mem.read 0x102 = some 0xCC ∧ s.mem.read 0x103 = some 0xDD := by
  refine ⟨.inl ⟨5, 0, rfl, ?_⟩, ?_, ?_, ?_, ?_, .inr ⟨5, 2, rfl, ?_⟩, ?_, ?_, ?_, ?_⟩ <;>
    first | decide +kernel | (unfold AccessCount; decide +kernel)

/-- `LoadReadsDeviceRegister`: TCSR0, and the constant STATUS. -/
theorem witness_load_device :
    let s := start Config.default (.lhui 7 5 2) 0 [(5, 0x80000000), (6, 0x40000000)]
    AccessOf false (.lhui 7 5 2) s 7 0x80000002 ∧ AccessCount false s 7 0x80000002 0 ∧
      targetOf s.cfg 0x80000002 = .register ⟨0, .tcsr0, ⟨1, 1⟩⟩ ∧ s.registerOf ⟨0, .tcsr0, ⟨1, 1⟩⟩ = some DevReg.zero ∧
      AccessOf false (.lhui 7 6 6) s 7 0x40000006 ∧ AccessCount false s 7 0x40000006 0 ∧
      targetOf s.cfg 0x40000006 = .register ⟨1, .status, ⟨1, 1⟩⟩ ∧ s.registerOf ⟨1, .status, ⟨1, 1⟩⟩ = some DevReg.zero := by
  refine ⟨.inr ⟨5, 2, rfl, ?_⟩, ?_, ?_, ?_, .inr ⟨6, 6, rfl, ?_⟩, ?_, ?_, ?_⟩ <;>
    first | decide +kernel | (unfold AccessCount; decide +kernel)

/-- `LoadOfRxConsumesOneByte`: RX, with a byte lined up and with none. -/
theorem witness_load_rx :
    let s := start Config.default (.lhui 7 6 0xA) 0 [(6, 0x40000000)]
    AccessOf false (.lhui 7 6 0xA) s 7 0x4000000A ∧ AccessCount false s 7 0x4000000A 0 ∧
      targetOf s.cfg 0x4000000A = .register ⟨1, .rx, ⟨1, 1⟩⟩ ∧ s.registerOf ⟨1, .rx, ⟨1, 1⟩⟩ = some DevReg.zero ∧
      s.rxBytes = [] ∧ AccessOf false (.lhui 7 6 0xA) { s with rxBytes := [0x41] } 7 0x4000000A ∧
      AccessCount false { s with rxBytes := [0x41] } 7 0x4000000A 0 := by
  refine ⟨.inr ⟨6, 0xA, rfl, ?_⟩, ?_, ?_, ?_, ?_, .inr ⟨6, 0xA, rfl, ?_⟩, ?_⟩ <;>
    first | decide +kernel | (unfold AccessCount; decide +kernel)

/-- `StoreWritesImageHalf`: the last half-word of the local-fast region. -/
theorem witness_store_image :
    let s := start plain (.sh 6 5 2) 0 [(5, 0xFFFC), (6, 0x12345678), (2, 2)]
    AccessOf true (.sh 6 5 2) s 6 0xFFFE ∧ AccessCount true s 6 0xFFFE 0 ∧ targetOf s.cfg 0xFFFE = .image := by
  refine ⟨.inl ⟨5, 2, rfl, ?_⟩, ?_, ?_⟩ <;> first | decide +kernel | (unfold AccessCount; decide +kernel)

/-- `StoreStagesDeviceRegister`: TX, and the discarded STATUS and RX. -/
theorem witness_store_device :
    let s := start Config.default (.shi 6 5 2) 0 [(5, 0x40000000), (6, 0x41)]
    (AccessOf true (.shi 6 5 0xE) s 6 0x4000000E ∧ AccessCount true s 6 0x4000000E 0 ∧
      targetOf s.cfg 0x4000000E = .register ⟨1, .tx, ⟨1, 1⟩⟩ ∧ s.registerOf ⟨1, .tx, ⟨1, 1⟩⟩ = some DevReg.zero) ∧
    (AccessOf true (.shi 6 5 6) s 6 0x40000006 ∧ AccessCount true s 6 0x40000006 0 ∧
      targetOf s.cfg 0x40000006 = .register ⟨1, .status, ⟨1, 1⟩⟩ ∧ s.registerOf ⟨1, .status, ⟨1, 1⟩⟩ = some DevReg.zero) ∧
    (AccessOf true (.shi 6 5 8) s 6 0x40000008 ∧ AccessCount true s 6 0x40000008 0 ∧
      targetOf s.cfg 0x40000008 = .register ⟨1, .rx, ⟨1, 1⟩⟩ ∧ s.registerOf ⟨1, .rx, ⟨1, 1⟩⟩ = some DevReg.zero) := by
  refine ⟨⟨.inr ⟨5, 0xE, rfl, ?_⟩, ?_, ?_, ?_⟩, ⟨.inr ⟨5, 6, rfl, ?_⟩, ?_, ?_, ?_⟩, ⟨.inr ⟨5, 8, rfl, ?_⟩, ?_, ?_, ?_⟩⟩ <;>
    first | decide +kernel | (unfold AccessCount; decide +kernel)

/-- `AccessWaitsWithoutEffect`: a load in the local-fast region of latency 3 and a store in the mapped fallback of latency 2. -/
theorem witness_access_waits :
    let s := start { plain with lmbLat := ⟨3, 3⟩, mapLat := ⟨2, 2⟩ } (.lhu 7 5 0) 0 [(5, 0x100), (6, 0x50000000)]
    AccessOf false (.lhu 7 5 0) s 7 0x100 ∧ AccessCount false s 7 0x100 2 ∧ regionOf s.cfg 0x100 ≠ .map ∧
      AccessOf true (.shi 7 6 2) s 7 0x50000002 ∧ AccessCount true s 7 0x50000002 1 ∧ regionOf s.cfg 0x50000002 = .map := by
  refine ⟨.inl ⟨5, 0, rfl, ?_⟩, ?_, ?_, .inr ⟨6, 2, rfl, ?_⟩, ?_, ?_⟩ <;>
    first | decide +kernel | (unfold AccessCount; decide +kernel)

/-- `OddAddressRaisesUnaligned`: the last address of the space, and an address with nothing mapped. -/
theorem witness_odd_address :
    AccessOf false (.lhu 7 5 0) (start plain (.lhu 7 5 0) 0 [(5, 0xFFFFFFFF)]) 7 0xFFFFFFFF ∧ (0xFFFFFFFF#32).toNat % 2 = 1 ∧
      AccessOf true (.shi 7 5 1) (start plain (.shi 7 5 1) 0 [(5, 0x100)]) 7 0x101 ∧ (0x101#32).toNat % 2 = 1 := by
  refine ⟨.inl ⟨5, 0, rfl, ?_⟩, ?_, .inr ⟨5, 1, rfl, ?_⟩, ?_⟩ <;> decide +kernel

/-- `AccessFaultsByName`, both clauses: the fallback just past the local-fast region, and an absent half-word of the image. -/
theorem witness_access_faults :
    let s := start plain (.lhu 7 5 0) 0 [(5, 0x10000), (6, 0x104)]
    (AccessOf false (.lhu 7 5 0) s 7 0x10000 ∧ AccessCount false s 7 0x10000 0 ∧ targetOf s.cfg 0x10000 = .unmapped) ∧
    (AccessOf false (.lhu 7 6 0) s 7 0x104 ∧ AccessCount false s 7 0x104 0 ∧ targetOf s.cfg 0x104 = .image ∧
      s.mem.read 0x104 = none) := by
  refine ⟨⟨.inl ⟨5, 0, rfl, ?_⟩, ?_, ?_⟩, ⟨.inl ⟨6, 0, rfl, ?_⟩, ?_, ?_, ?_⟩⟩ <;>
    first | decide +kernel | (unfold AccessCount; decide +kernel)

/-- `BusRefusesMisaligned` and `BusCompletesOnLastCall`: a misaligned word, and an access of latency 3 at its first, its second and
its last call. -/
theorem witness_bus :
    (0x102#32).toNat % Width.word.bytes ≠ 0 ∧ (State.powerOn { plain with lmbLat := ⟨3, 3⟩ } word100).pend = none ∧
      (0x100#32).toNat % Width.half.bytes = 0 ∧ accessLatency { plain with lmbLat := ⟨3, 3⟩ } .read 0x100 = 3 ∧
      accessLatency { plain with lmbLat := ⟨3, 3⟩ } .write 0x100 = 3 := by decide +kernel

/-- `RegionDecidesTargetAndLatency`, every clause: both ends of both regions, a register in each of the outer regions, none. -/
theorem witness_regions :
    Config.default.lmb.contains 0 = true ∧ Config.default.lmb.contains 0xFFFF = true ∧ Config.default.lmb.contains 0x10000 = false ∧
      regionOf Config.default 0x40000000 = .opb ∧ regionOf Config.default 0x4000FFFF = .opb ∧
      regionOf Config.default 0x40010000 = .map ∧ (regMap Config.default 0x4000000C).isSome ∧
      regMap Config.default 0x40000010 = none ∧ (regMap Config.default 0x80000018).isSome ∧ regMap Config.default 0x8000001C = none ∧
      Config.default.wf = true ∧ regMap Config.default 0x4000000E = some ⟨1, .tx, ⟨1, 1⟩⟩ := by
  decide +kernel

/-- `ImageLoadAfterStore`: two half-words that touch; `ImageLanesOfAWord`: a word that loads and each of its half-words. -/
theorem witness_image :
    (0x100#32).toNat + Width.half.bytes ≤ (0x102#32).toNat ∧ word100.load true .word 0x100 = some 0xAABBCCDD#32 ∧
      word100.load false .word 0x100 = some 0xDDCCBBAA#32 ∧ (0x102#32).toNat % Width.half.bytes = 0 ∧
      (0x102#32).toNat < (0x100#32).toNat + 4 := by decide +kernel

/-- `PutStagesUpdateCommits`: a register of each device; a dirty one and a clean one. -/
theorem witness_put :
    (DeviceState.timer Timer.zero).reg? .tcsr1 = some DevReg.zero ∧ (DeviceState.byteStream (ByteStream.zero plain)).reg? .tx = some DevReg.zero ∧
      DevReg.zero.dirty = false := by decide

/-- `TimerTickMovesCounter` and `GlobalEnableReachesSibling`, every clause: counting at the boundary, counting on, loading only,
neither; ENALL written and not. -/
theorem witness_timer :
    (timerOf 0x91 0xFFFFFFFD 0).ch0.tcsr.flags.mdt ≠ plain.tmrGenerateCode ∧ (timerOf 0x91 0 0).ch0.tcsr.flags.ent = true ∧
      (timerOf 0x91 0xFFFFFFFD 0).ch0.tcr.committed = 0 ∧ (timerOf 0x93 5 1).ch0.tcr.committed ≠ 0 ∧
      (timerOf 0x21 5 0).ch0.tcsr.flags.ent = false ∧ (timerOf 0x21 5 0).ch0.tcsr.flags.load = true ∧
      (timerOf 0x01 5 0).ch0.tcsr.flags.load = false ∧ (timerOf 0x80 0 7).ch0.tcsr.flags.mdt = plain.tmrGenerateCode ∧
      (0x400#32).getLsbD 10 = true ∧ (0x3FF#32).getLsbD 10 = false := by decide +kernel

/-- `TimerRequestFollowsPending`, every clause: a clean register at the arrival, one whose write-1 commits in that very tick (the
event is lost, 60_exceptions.md R244), and an ENALL from each side (R246). -/
theorem witness_timer_registers :
    let written (t : Timer) (v0 v1 : Word) := (t.putReg .tcsr0 v0).putReg .tcsr1 v1
    (ticks 1 (timerOf 0x81 0 0xFFFFFFFF)).ch0.tcsr.reg.get = 0x181 ∧
      (ticks 1 ((timerOf 0x81 0 0xFFFFFFFF).putReg .tcsr0 0x181)).ch0.tcsr.reg.get = 0x81 ∧
      (ticks 1 ((timerOf 0 0 0).putReg .tcsr0 0x400)).ch1.tcsr.reg.get = 0x480 ∧
      (ticks 1 (written (timerOf 0 0 0) 0x400 0x1)).ch1.tcsr.reg.get = 0x1 ∧
      (ticks 1 (written (timerOf 0 0 0) 0x1 0x400)).ch0.tcsr.reg.get = 0x481 := by decide +kernel

/-- `CycleTicksEveryDevice`, `RetiredCountsCompletions`, `NormalAdvancesThePipeline` and the statements about every step: a step
that answers NORMAL with an instruction behind the one that fires. -/
theorem witness_normal :
    let s := { start Config.default (.addik 3 0 7) 0 [] with de := some (instOf (.addik 4 0 8) 4) }
    s.rst = false ∧ s.acceptsInterrupt = false ∧ got (step s) (fun t => t.status) = some .normal := by decide +kernel

/-- `JumpDiscardsFetched`: a step that answers JUMP, and the one behind it. -/
theorem witness_jump :
    let s := start plain (.beqi 0 8) 0x10 []
    s.rst = false ∧ s.acceptsInterrupt = false ∧ got (step s) (fun t => (t.status, t.rst, t.acceptsInterrupt)) = some (.jump, false, false) ∧
      got (runCycles 2 s) (fun t => t.status) = some .normal := by decide +kernel

/-- `OtherStatusHoldsThePipeline` and `TerminalStatusRepeats`: a step that answers a terminal status, twice. -/
theorem witness_terminal :
    let s := start plain (.lhui 12 5 1) 0 [(5, 0x100)]
    s.rst = false ∧ s.acceptsInterrupt = false ∧
      got (step s) (fun t => (t.status, t.status.terminal, t.rst, t.acceptsInterrupt)) = some (.memUnaligned, true, false, false) := by
  decide +kernel

/-- `OtherStatusHoldsThePipeline` on a soft wait, and `TerminalStatusesEndRuns` on a soft status. -/
theorem witness_soft :
    let s := start { plain with lmbLat := ⟨3, 3⟩ } (.lhu 7 5 0) 0 [(5, 0x100)]
    s.rst = false ∧ got (step s) (fun t => (t.status, t.status.terminal)) = some (.memAccess, false) := by decide +kernel

/-- `SlotWithoutEffect`, every clause: an empty slot, the exit address, an absent word, a word that is no instruction. -/
theorem witness_slot :
    State.reset.ex = none ∧ ({ plain with exitAddr := some 0x18 } : Config).exitAddr = some (instOf (.imm 0) 0x18).ipc ∧
      plain.exitAddr ≠ some 0x18 ∧ (decodeSlot plain ⟨0x18, none⟩).kind = .unfetchable ∧
      (decodeSlot plain ⟨0x18, some 0⟩).kind = .illegal 0 ∧ (∀ r ∈ opcodeMap, r.matches 0 = false) := by decide +kernel

/-- `BreakpointIsNeverProduced`, its last clause: a state the host has put there. -/
theorem witness_breakpoint : ({ State.reset with status := .breakpoint } : State).status = .breakpoint := rfl

/-- `InterruptAcceptance` and `InterruptEntry`: an accepted interrupt with an unstarted instruction in the slot (V61.3). -/
theorem witness_interrupt :
    let s := { start plain (.addik 3 0 7) 0x60 [] with irqAgg := 1, msr := 2 }
    s.cfg.wf = true ∧ s.rst = false ∧ s.acceptsInterrupt = true ∧ s.resumeAddress = 0x60 := by decide +kernel

/-- `CarryKeptEnableNeverSet`, its second clause: a step with the enable clear. -/
theorem witness_enable_clear :
    let s := { start plain (.msrclr 3 0x7FFF) 0 [] with msr := 0x8005 }
    s.rst = false ∧ s.msr &&& s.cfg.msrIe = 0 ∧ got (step s) (fun t => t.msr) = some 0x8004 := by decide +kernel

/-- `CarryKeptEnableNeverSet`, its clauses on MSR: an interrupt entry, and, with DS_CLEAR = next_retire, a BRALID that arms the mark
and an MSRCLR that retires next. -/
theorem witness_msr_writers :
    let c := { plain with dsClear := .nextRetire }
    got (step { start c (.addik 3 0 7) 0x60 [] with irqAgg := 1, msr := 2, dsArmed := true }) (fun t => (t.msr, t.dsArmed)) =
        some (0, true) ∧
      got (step (start c (.bralid 3 0x40) 0 [])) (fun t => (t.msr, t.dsArmed, t.status)) = some (0x8000, true, .jump) ∧
      got (step { start c (.msrclr 3 1) 0 [] with msr := 0x8005, dsArmed := true }) (fun t => (t.msr, t.dsArmed, t.status)) =
        some (4, false, .normal) := by decide +kernel

/-- `ExceptionRegisterWriters`: a step that changes EAR and ESR, and one that changes EAR alone (MEM_MAPPED). -/
theorem witness_exception_writers :
    got (step (start plain (.lhui 12 5 1) 0 [(5, 0x100)])) (fun t => (t.ear, t.esr)) = some (0x101, 0x181) ∧
      got (step (start { plain with mapLat := ⟨2, 2⟩ } (.lhui 12 5 0) 0 [(5, 0x50000000)])) (fun t => (t.ear, t.esr, t.status)) =
        some (0x50000000, 0, .memMapped) := by decide +kernel

/-- `OnlyStoresChangeMemory`: a step that changes memory. -/
theorem witness_store_step :
    got (step (start plain (.sh 6 5 2) 0 [(5, 0x104), (6, 1)])) (fun t => decide (t.mem = word100)) = some false := by decide +kernel

/-- `ResetOperation`: the reset input sampled high in a well-formed state that is not the reset state. -/
theorem witness_reset :
    let s := { start Config.default (.addik 3 0 7) 0x60 [(3, 9)] with rst := true, cycle := 5 }
    s.cfg.wf = true ∧ s.rst = true ∧ got (step s) (fun t => (t.reg 3, t.cycle, t.mem)) = some (0, 0, word100) := by decide +kernel

/-- `IllFormedLaunchRefused`, every clause: ill-formed configurations, a launch that runs, one whose image leaves the regions by one
byte, one without the exit address it needs. -/
theorem witness_launch :
    ({ plain with lmbLat := ⟨0, 1⟩ } : Config).wf = false ∧ ({ plain with ilen := 16 } : Config).wf = false ∧ plain.wf = true ∧
      got (launch plain word100 false) (fun t => t.mem) = some word100 ∧
      refusalOf (launch plain [(0x10000, 0)] false) = some .illFormedLaunch ∧
      refusalOf (launch plain word100 true) = some .illFormedLaunch := by
  decide +kernel

/-- A run loop called with `rst` high: the reset is one of the N edges and no cycle (log entry 29). -/
theorem test_run_cycles_under_reset :
    got (runCycles 3 { start plain (.addik 3 0 7) 0 [] with rst := true, retired := 5 }) (fun t => (t.cycle, t.retired)) =
      some (2, 0) := by decide +kernel

/-- `StepKeepsInvariant` and `StepStopsOnlyWhereOpen`: a state with an image, a store in the slot and both devices meets the invariant
and steps. -/
theorem witness_invariant :
    let s := start Config.default (.sh 6 5 2) 0 [(5, 0x100), (6, 1)]
    s.Inv ∧ s.cfg.wf = true ∧ got (step s) (fun t => t.cycle) = some 1 := by
  refine ⟨⟨by decide +kernel, ?_, ⟨?_, ?_, ?_⟩, by unfold State.devicesMatch; decide +kernel, ?_, by decide +kernel⟩, by decide +kernel,
    by decide +kernel⟩
  · unfold State.imageLoadable; decide +kernel
  · intro inst h; cases h
  · intro inst h
    cases h
    exact ⟨Nat.le_refl 1, fun c hc => by cases hc⟩
  · intro p h; cases h
  · intro d hd
    have hd : d ∈ [DeviceState.timer Timer.zero, .byteStream (ByteStream.zero Config.default)] := hd
    rcases List.mem_cons.mp hd with rfl | hd
    · constructor <;> (unfold Tcsr.flagsShown; decide)
    · cases List.mem_singleton.mp hd
      trivial

/-- `StepKeepsSlotsFilled`: all three slots hold something, an IMM with its consumer behind it, and the step runs. -/
theorem witness_slots_filled :
    let s := { start plain (.imm 1) 0 [] with de := some (instOf (.addik 6 0 2) 4), fe := some ⟨8, some 0x30000000⟩ }
    s.noBubbles ∧ s.immPend = false ∧ got (step s) (fun t => (t.immPend, t.de.isSome)) = some (false, true) := by
  refine ⟨⟨fun _ => rfl, fun _ => rfl⟩, rfl, by decide +kernel⟩

/-- A load in the slot of a state with an image and no device meets the invariant, whatever its base register holds. -/
theorem start_lhu_inv (v : Word) : (start plain (.lhu 7 5 0) 0 [(5, v)]).Inv where
  memory := (by decide +kernel : word100.wf = true)
  image := (by unfold State.imageLoadable; decide +kernel : (State.powerOn plain word100).imageLoadable)
  counters := by
    refine ⟨?_, ?_, ?_⟩
    · intro inst h; cases h
    · intro inst h
      cases h
      exact ⟨Nat.le_refl 1, fun c hc => by cases hc⟩
    · intro p h; cases h
  devices := rfl
  flags := fun _ h => by cases h
  aggregate := Nat.le_refl 0

/-- `StepStopsOnlyWhereOpen`, the two accesses: all that its disjuncts say of a load of an absent half-word and of one in the fallback. -/
theorem witness_access_stops :
    let s := start plain (.lhu 7 5 0) 0 [(5, 0x104)]
    let u := start plain (.lhu 7 5 0) 0 [(5, 0x10000)]
    (s.ex = some (instOf (.lhu 7 5 0) 0) ∧ AccessOf false (.lhu 7 5 0) s 7 0x104 ∧ AccessCount false s 7 0x104 0 ∧
      targetOf s.cfg 0x104 = .image ∧ s.mem.read 0x104 = none ∧ step s = .fault (.uninitialisedRead 0x104)) ∧
    (u.ex = some (instOf (.lhu 7 5 0) 0) ∧ AccessOf false (.lhu 7 5 0) u 7 0x10000 ∧ AccessCount false u 7 0x10000 0 ∧
      targetOf u.cfg 0x10000 = .unmapped ∧ step u = .fault (.unmappedAccess 0x10000)) := by
  refine ⟨⟨rfl, .inl ⟨5, 0, rfl, ?_⟩, ?_, ?_, ?_, by rfl⟩, ⟨rfl, .inl ⟨5, 0, rfl, ?_⟩, ?_, ?_, by rfl⟩⟩ <;>
    first | decide +kernel | (unfold AccessCount; decide +kernel)

/-- `StepStopsOnlyWhereOpen`, the stops by name: an absent word in the slot. -/
theorem witness_absent_word :
    faultOf (step { State.powerOn plain word100 with ex := some (decodeSlot plain ⟨0x18, none⟩) }) = some (.noInstruction 0x18) := by
  decide +kernel

/-- `RunRetiredMeetsCount`: one instruction retires within the bound. -/
theorem witness_run_retired :
    (start plain (.addik 3 0 7) 0 []).rst = false ∧
      got (runRetired 1 5 (start plain (.addik 3 0 7) 0 [])) (fun t => (t.retired, t.cycle, t.status)) = some (1, 1, .normal) := by
  decide +kernel

end Sys2Proof.Tests
end

section
/-! SUPPORT. Everything an instruction's effect can leave behind, case by case: a half-word access first, then `exec`, then the
step of the execute slot and the rest of the cycle behind it. -/

namespace Sys2Proof.Machine

/-! ### A half-word access -/

/-- The six ways a half-word access leaves the state (43_load_store.md R190, 20_memory.md R67 to R71). -/
inductive AccessLeaves (store : Bool) (ea : Word) (rD : RegIdx) (s : State) : State → Prop
  | unaligned : AccessLeaves store ea rD s (s.raiseUnaligned ea rD store)
  | waitsMapped (p : Pending) (counting : 1 ≤ p.cnt) :
      AccessLeaves store ea rD s { s with pend := some p, ear := ea, status := .memMapped }
  | waits (p : Pending) (counting : 1 ≤ p.cnt) :
      AccessLeaves store ea rD s { s with pend := some p, status := .memAccess }
  | loaded (v : Word) (bytes : List Byte) (pulled : Nat) (isLoad : store = false) :
      AccessLeaves store ea rD s
        (({ s with pend := none, rxBytes := bytes, rxPulled := pulled }.writeReg rD v).withStatus .normal)
  | stored (d : Word) (isStore : store = true) (even : ea.toNat % 2 = 0) (image : targetOf s.cfg ea = .image) :
      AccessLeaves store ea rD s
        { s with pend := none, mem := s.mem.store s.cfg.bigEndian .half ea d, status := .normal }
  | staged (dev : Nat) (name : RegName) (v : Word) (isStore : store = true) :
      AccessLeaves store ea rD s
        { s with pend := none, devices := s.devices.modify dev (fun d => d.putReg name v), status := .normal }

/-- A half-word is misaligned at the odd addresses (20_memory.md R63). -/
theorem misaligned_half {a : Word} : misaligned .half a = false ↔ a.toNat % 2 = 0 := by
  simp [misaligned, Width.bytes]

/-- The two answers of a bus call that waits, as the access leaves them. -/
theorem accessLeaves_of_wait (store : Bool) (ea : Word) (rD : RegIdx) (s : State) (p : Pending) (counting : 1 ≤ p.cnt) :
    AccessLeaves store ea rD s
      (({ s with pend := some p } : State).afterWait ea rD store (if regionOf s.cfg ea = Region.map then .mapped else .access)) := by
  split
  · exact .waitsMapped p counting
  · exact .waits p counting

/-- Everything a half-word load can leave (43_load_store.md R190). -/
theorem loadHalf_leaves {s t : State} {ea : Word} {rD : RegIdx} (h : s.loadHalf ea rD = .next t) :
    AccessLeaves false ea rD s t := by
  obtain ⟨r, u, hbus, rfl⟩ := loadHalf_next h
  rcases bus_next hbus with ⟨-, rfl, rfl⟩ | ⟨-, counting, rfl, rfl⟩ | ⟨-, -, -, v, rfl, hread⟩ | ⟨-, -, hkind, -⟩
  · exact .unaligned
  · exact accessLeaves_of_wait false ea rD s ⟨_, _, _, _, _⟩ counting
  · obtain ⟨bytes, pulled, rfl⟩ := memRead_next hread
    exact .loaded v bytes pulled rfl
  · cases hkind

/-- Everything a half-word store can leave (43_load_store.md R190). -/
theorem storeHalf_leaves {s t : State} {ea : Word} {rD : RegIdx} (h : s.storeHalf ea rD = .next t) :
    AccessLeaves true ea rD s t := by
  obtain ⟨r, u, hbus, rfl⟩ := storeHalf_next h
  rcases bus_next hbus with ⟨-, rfl, rfl⟩ | ⟨-, counting, rfl, rfl⟩ | ⟨-, -, hkind, -⟩ | ⟨aligned, -, -, rfl, hwrite⟩
  · exact .unaligned
  · exact accessLeaves_of_wait true ea rD s ⟨_, _, _, _, _⟩ counting
  · cases hkind
  · rcases memWrite_next hwrite with ⟨image, rfl⟩ | ⟨r, reg, -, -, rfl⟩
    · exact .stored _ rfl (misaligned_half.mp aligned) image
    · exact .staged r.dev r.name _ rfl

/-- The effective address of an access reads the general registers and the IMM half-word of the instruction in EX alone. -/
theorem accessOf_withEx {store : Bool} {i : Instr} {s : State} {inst e : Inst} {rD : RegIdx} {ea : Word}
    (hex : s.ex = some inst) (hupper : e.upper = inst.upper) :
    AccessOf store i { s with ex := some e } rD ea ↔ AccessOf store i s rD ea := by
  have himm : ∀ imm16, ({ s with ex := some e } : State).imm32 imm16 = s.imm32 imm16 := fun imm16 => by
    simp [State.imm32, State.exUpper, hex, hupper]
  have hreg : ∀ r, ({ s with ex := some e } : State).reg r = s.reg r := fun r => State.reg_congr rfl rfl r
  cases store <;> simp [AccessOf, State.addrIndexed, State.addrImmediate, himm, hreg]

/-! ### `exec` -/

/-- The eight ways an instruction's effect leaves the state. -/
inductive ExecLeaves (i : Instr) (s : State) : State → Prop
  | access (store : Bool) (rD : RegIdx) (ea : Word) (t : State) (accesses : AccessOf store i s rD ea)
      (leaves : AccessLeaves store ea rD s t) : ExecLeaves i s t
  | writes (rD : RegIdx) (v : Word) : ExecLeaves i s ((s.writeReg rD v).withStatus .normal)
  | unknownSelector : ExecLeaves i s (s.withStatus .illegal)
  | notTaken : ExecLeaves i s (s.withStatus .normal)
  | taken (target : Word) : ExecLeaves i s (s.jumpTo target)
  | prefixes (imm16 : BitVec 16) (isImm : i = .imm imm16) :
      ExecLeaves i s { s with uimm := imm16 ++ 0#16, immPend := true, status := .normal }
  | links (rD : RegIdx) (imm16 : BitVec 16) (isBralid : i = .bralid rD imm16) :
      ExecLeaves i s ({ s.writeReg rD s.ipc with msr := s.msrWithDs }.jumpTo (s.imm32 imm16))
  | clears (rD : RegIdx) (imm15 : BitVec 15) (isMsrclr : i = .msrclr rD imm15) :
      ExecLeaves i s ({ s.writeReg rD s.msr with msr := s.msrCleared imm15 }.withStatus .normal)

/-- A conditional branch jumps or falls through (42_branch.md R183). -/
theorem execLeaves_branchIf (i : Instr) (s : State) (taken : Bool) (offset : Word) :
    ExecLeaves i s (s.branchIf taken offset) := by
  cases taken
  · exact .notTaken
  · exact .taken _

/-- Everything `exec` can leave, whatever the instruction. -/
theorem exec_leaves {i : Instr} {s t : State} (h : exec i s = .next t) : ExecLeaves i s t := by
  cases i with
  | lhu rD rA rB => exact .access false rD _ t (.inl ⟨rA, rB, rfl, rfl⟩) (loadHalf_leaves h)
  | lhui rD rA imm16 => exact .access false rD _ t (.inr ⟨rA, imm16, rfl, rfl⟩) (loadHalf_leaves h)
  | sh rD rA rB => exact .access true rD _ t (.inl ⟨rA, rB, rfl, rfl⟩) (storeHalf_leaves h)
  | shi rD rA imm16 => exact .access true rD _ t (.inr ⟨rA, imm16, rfl, rfl⟩) (storeHalf_leaves h)
  | mfs rD sel =>
    simp only [exec, execMfs] at h
    split at h <;> cases h
    · exact .writes rD _
    · exact .unknownSelector
  | beqi rA imm16 => cases h; exact execLeaves_branchIf _ s _ _
  | blt rA rB => cases h; exact execLeaves_branchIf _ s _ _
  | imm imm16 => cases h; exact .prefixes imm16 rfl
  | bralid rD imm16 => cases h; exact .links rD imm16 rfl
  | msrclr rD imm15 => cases h; exact .clears rD imm15 rfl
  | addik rD _ _ | pcmpbf rD _ _ | pcmpeq rD _ _ | sext8 rD _ => cases h; exact .writes rD _

/-! ### The step of the execute slot -/

/-- The state in which the effect of the instruction in EX is performed: its counter put back to 1 (40_engine.md R131). -/
def State.resolved (s : State) (inst : Inst) : State := { s with ex := some { s.begun inst with cnt := 1 } }

/-- An access has the address in the resolved state that it has before the step. -/
theorem accessOf_resolved {store : Bool} {i : Instr} {s : State} {inst : Inst} {rD : RegIdx} {ea : Word}
    (hex : s.ex = some inst) : AccessOf store i (s.resolved inst) rD ea ↔ AccessOf store i s rD ea :=
  have ⟨_, _, hupper, _, _⟩ := begun_spec s inst
  accessOf_withEx hex hupper

/-- The step of the execute slot performs an instruction's effect, or writes the status and, for a stall, the counter in EX. -/
theorem stepEx_leaves {s t : State} (h : s.stepEx = .next t) :
    (∃ inst i, s.ex = some inst ∧ inst.kind = .instr i ∧ ExecLeaves i (s.resolved inst) t) ∨
    (∃ st, t = s.withStatus st) ∨
    (∃ inst, s.ex = some inst ∧ 1 < (s.begun inst).cnt ∧
      t = { s with ex := some { s.begun inst with cnt := (s.begun inst).cnt - 1 }, status := .stall }) := by
  rcases stepEx_next h with ⟨-, rfl⟩ | ⟨_, -, -, rfl⟩ | ⟨_, _, -, -, -, rfl⟩ | ⟨inst, _, hex, -, -, running, rfl⟩ |
    ⟨inst, i, hex, -, hkind, -, hexec⟩
  · exact .inr (.inl ⟨_, rfl⟩)
  · exact .inr (.inl ⟨_, rfl⟩)
  · exact .inr (.inl ⟨_, rfl⟩)
  · exact .inr (.inr ⟨inst, hex, running, rfl⟩)
  · exact .inl ⟨inst, i, hex, hkind, exec_leaves hexec⟩

/-! ### The rest of the cycle -/

/-- What the controller may change behind the step of the execute slot: the slots, PC, IMMPEND, and what a retirement writes. -/
theorem settle_keeps {s t : State} (h : s.settle = .next t) :
    ∃ m armed n ip fe de ex p, t = { s with msr := m, dsArmed := armed, retired := n, immPend := ip, fe := fe, de := de,
                                            ex := ex, pc := p } := by
  obtain ⟨m, armed, n, hretire⟩ := retire_spec s
  rcases settle_next h with ⟨-, hadv⟩ | ⟨-, rfl⟩ | ⟨-, -, rfl⟩
  · obtain ⟨u, hfill, rfl⟩ := advance_next hadv
    obtain ⟨ip, ex, rfl⟩ := fillEx_keeps hfill
    rw [hretire]
    exact ⟨_, _, _, _, _, _, _, _, rfl⟩
  · rw [State.flush, hretire]
    exact ⟨_, _, _, _, _, _, _, _, rfl⟩
  · exact ⟨_, _, _, _, _, _, _, _, rfl⟩

/-- The controller acts on the status and does not write it. -/
theorem settle_status {s t : State} (h : s.settle = .next t) : t.status = s.status := by
  obtain ⟨_, _, _, _, _, _, _, _, rfl⟩ := settle_keeps h
  rfl

/-- Everything a cycle without reset can be: an interrupt entry, or the step of the execute slot and the controller. -/
theorem cycle_next {s t : State} (hrst : s.rst = false) (h : step s = .next t) :
    (s.acceptsInterrupt = true ∧ t = s.interruptEntry.endCycle) ∨
    (s.acceptsInterrupt = false ∧ ∃ u v, s.stepEx = .next u ∧ u.settle = .next v ∧ t = v.endCycle) := by
  obtain ⟨-, ⟨hreset, -⟩ | ⟨-, v, htick, rfl⟩⟩ := step_next h
  · simp [hrst] at hreset
  · rcases cpuTick_next htick with ⟨haccept, rfl⟩ | ⟨haccept, u, hstep, hsettle⟩
    · exact .inl ⟨haccept, rfl⟩
    · exact .inr ⟨haccept, u, v, hstep, hsettle, rfl⟩

end Sys2Proof.Machine
end

section
/-! SUPPORT. What a well-formed configuration gives (00_scope.md R7, 10_state.md R23, 20_memory.md R84), and the regions and
registers of its addresses (R64 to R66). -/

namespace Sys2Proof.Machine

/-! ### The parts of well-formedness -/

/-- The six checks of a configuration (20_memory.md R84). -/
theorem wf_parts {c : Config} (h : c.wf = true) :
    c.lengthOk = true ∧ c.latenciesOk = true ∧ c.masksOk = true ∧ c.boundsOk = true ∧
      c.devices.all DeviceCfg.registersDeclared = true ∧ c.addressesOk = true := by
  simpa [Config.wf, and_assoc] using h

/-- An entry of a latency table whose entries are all at least 1 is at least 1, and so is the default (00_scope.md R7). -/
theorem one_le_latencyOf {table : List (Mnemonic × Nat)} (h : ∀ e ∈ table, 1 ≤ e.2) (m : Mnemonic) :
    1 ≤ latencyOf m table := by
  induction table with
  | nil => exact Nat.le_refl 1
  | cons e rest ih =>
    obtain ⟨hhead, hrest⟩ := List.forall_mem_cons.mp h
    rw [latencyOf]
    split
    · exact hhead
    · exact ih hrest

/-- Every instruction's two latencies are at least 1 (30_encoding.md R110). -/
theorem one_le_latencies_of_wf {c : Config} (h : c.wf = true) (m : Mnemonic) :
    1 ≤ latencyOf m c.lat ∧ 1 ≤ latencyOf m c.clat := by
  obtain ⟨-, hlat, -⟩ := wf_parts h
  simp only [Config.latenciesOk, Bool.and_eq_true, List.all_eq_true, decide_eq_true_eq] at hlat
  obtain ⟨⟨-, plain⟩, conditional⟩ := hlat
  exact ⟨one_le_latencyOf plain m, one_le_latencyOf conditional m⟩

/-- A region's bounds are aligned: multiples of 4, and one less than a multiple of 4 (20_memory.md R84). -/
theorem bounds_wf_iff {b : Bounds} : b.wf = true ↔ b.base.toNat % 4 = 0 ∧ b.last.toNat % 4 = 3 := by
  simp [Bounds.wf]

/-- Both regions of a well-formed configuration have aligned bounds. -/
theorem bounds_of_wf {c : Config} (h : c.wf = true) : c.lmb.wf = true ∧ ∀ b, c.opb = some b → b.wf = true := by
  obtain ⟨-, -, -, hbounds, -⟩ := wf_parts h
  obtain ⟨hlmb, hopb⟩ := Bool.and_eq_true_iff.mp hbounds
  exact ⟨hlmb, fun b hb => by simpa [hb] using hopb⟩

/-! ### The masks -/

/-- A single bit is a power of two. -/
theorem isSingleBit_iff {w : Word} : isSingleBit w = true ↔ ∃ k < 32, w = BitVec.twoPow 32 k := by
  simp [isSingleBit, BitVec.twoPow]

/-- Two different single bits have no bit in common. -/
theorem singleBits_disjoint {a b : Word} (ha : isSingleBit a = true) (hb : isSingleBit b = true) (hne : a ≠ b) :
    a &&& b = 0 := by
  obtain ⟨i, hi, rfl⟩ := isSingleBit_iff.mp ha
  obtain ⟨j, hj, rfl⟩ := isSingleBit_iff.mp hb
  have hij : j ≠ i := fun e => hne (by rw [e])
  rw [BitVec.and_twoPow, BitVec.getLsbD_twoPow]
  simp [Ne.symm hij]

/-- The interrupt-enable, the carry and the delay-slot bit are three different bits (10_state.md R23). -/
theorem masks_disjoint_of_wf {c : Config} (h : c.wf = true) :
    c.msrIe &&& c.msrC = 0 ∧ c.msrDs &&& c.msrC = 0 ∧ c.msrDs &&& c.msrIe = 0 := by
  obtain ⟨-, -, hmasks, -⟩ := wf_parts h
  simp only [Config.masksOk, Bool.and_eq_true, decide_eq_true_eq] at hmasks
  obtain ⟨⟨⟨⟨⟨ie, carry⟩, ds⟩, ie_ne_carry⟩, ie_ne_ds⟩, carry_ne_ds⟩ := hmasks
  exact ⟨singleBits_disjoint ie carry ie_ne_carry, singleBits_disjoint ds carry carry_ne_ds.symm,
    singleBits_disjoint ds ie ie_ne_ds.symm⟩

/-! ### Regions -/

/-- An address between inclusive bounds (20_memory.md R64). -/
theorem contains_iff {b : Bounds} {a : Word} :
    b.contains a = true ↔ b.base.toNat ≤ a.toNat ∧ a.toNat ≤ b.last.toNat := by
  simp [Bounds.contains]

/-- The bus-peripheral region, if there is one, holds an address. -/
theorem opb_any_contains_iff {c : Config} {a : Word} :
    c.opb.any (fun b => b.contains a) = true ↔ ∃ b, c.opb = some b ∧ b.contains a = true := by
  cases c.opb <;> simp

/-- A loadable address lies in the local-fast or the bus-peripheral region (20_memory.md R83). -/
theorem loadable_iff {c : Config} {a : Word} :
    c.loadable a = true ↔ c.lmb.contains a = true ∨ ∃ b, c.opb = some b ∧ b.contains a = true := by
  rw [Config.loadable, Bool.or_eq_true, opb_any_contains_iff]

/-- The loadable addresses are those outside the mapped fallback. -/
theorem loadable_iff_region {c : Config} {a : Word} : c.loadable a = true ↔ regionOf c a ≠ .map := by
  unfold Config.loadable regionOf
  split
  · simp [*]
  · split <;> simp [*]

/-- Only loadable addresses stand for the image (20_memory.md R65). -/
theorem loadable_of_target_image {c : Config} {a : Word} (h : targetOf c a = .image) : c.loadable a = true := by
  rw [loadable_iff_region]
  intro hmap
  rw [targetOf, hmap] at h
  cases hreg : regMap c a <;> simp [hreg] at h

/-- Aligned bounds that hold an even address hold the address behind it too. -/
theorem contains_succ_of_even {b : Bounds} {a x : Word} (hb : b.wf = true) (heven : a.toNat % 2 = 0)
    (hx : x.toNat = a.toNat + 1) (h : b.contains a = true) : b.contains x = true := by
  obtain ⟨hbase, hlast⟩ := bounds_wf_iff.mp hb
  obtain ⟨hlow, hhigh⟩ := contains_iff.mp h
  exact contains_iff.mpr (by omega)

/-- Both bytes of an aligned half-word lie in the region its address lies in. -/
theorem loadable_succ_of_even {c : Config} {a x : Word} (hwf : c.wf = true) (heven : a.toNat % 2 = 0)
    (hx : x.toNat = a.toNat + 1) (h : c.loadable a = true) : c.loadable x = true := by
  obtain ⟨hlmb, hopb⟩ := bounds_of_wf hwf
  rcases loadable_iff.mp h with h | ⟨b, hb, h⟩
  · exact loadable_iff.mpr (.inl (contains_succ_of_even hlmb heven hx h))
  · exact loadable_iff.mpr (.inr ⟨b, hb, contains_succ_of_even (hopb b hb) heven hx h⟩)

end Sys2Proof.Machine
end

section
/-! SUPPORT. A timer's control registers show its flags, whatever is done to them: `put`, the three forced bits, `update`, the
counting half and the tick (60_exceptions.md R241 to R246, R256, R259). -/

namespace Sys2Proof.Machine

/-- A forced `tint` shows in the committed bit (R245). -/
theorem Tcsr.flagsShown_forceTint {r : Tcsr} (b : Bool) (h : r.flagsShown) : (r.forceTint b).flagsShown := by
  obtain ⟨hflags, -, -, hbit⟩ := r.forceTint_spec b
  obtain ⟨mdt, udt, arht, load, enit, ent, -, pwma, enall⟩ := h
  unfold Tcsr.flagsShown
  rw [hflags]
  exact ⟨(hbit _).trans mdt, (hbit _).trans udt, (hbit _).trans arht, (hbit _).trans load, (hbit _).trans enit,
    (hbit _).trans ent, hbit _, (hbit _).trans pwma, (hbit _).trans enall⟩

/-- A forced `ent` shows in the committed bit (R245). -/
theorem Tcsr.flagsShown_forceEnt {r : Tcsr} (b : Bool) (h : r.flagsShown) : (r.forceEnt b).flagsShown := by
  obtain ⟨hflags, -, -, hbit⟩ := r.forceEnt_spec b
  obtain ⟨mdt, udt, arht, load, enit, -, tint, pwma, enall⟩ := h
  unfold Tcsr.flagsShown
  rw [hflags]
  exact ⟨(hbit _).trans mdt, (hbit _).trans udt, (hbit _).trans arht, (hbit _).trans load, (hbit _).trans enit, hbit _,
    (hbit _).trans tint, (hbit _).trans pwma, (hbit _).trans enall⟩

/-- A forced `enall` shows in the committed bit (R245). -/
theorem Tcsr.flagsShown_forceEnall {r : Tcsr} (b : Bool) (h : r.flagsShown) : (r.forceEnall b).flagsShown := by
  obtain ⟨hflags, -, -, hbit⟩ := r.forceEnall_spec b
  obtain ⟨mdt, udt, arht, load, enit, ent, tint, pwma, -⟩ := h
  unfold Tcsr.flagsShown
  rw [hflags]
  exact ⟨(hbit _).trans mdt, (hbit _).trans udt, (hbit _).trans arht, (hbit _).trans load, (hbit _).trans enit,
    (hbit _).trans ent, (hbit _).trans tint, (hbit _).trans pwma, hbit _⟩

/-- The committed value of an update shows the flags decoded with it (R243, R246). -/
theorem flagsShown_of_committed {r : Tcsr} {v : Word} {tint : Bool} (hcommitted : r.reg.committed = committedTcsr v tint)
    (hflags : r.flags = decodedFlags v tint) : r.flagsShown := by
  have hbit := committedTcsr_bit v tint
  unfold Tcsr.flagsShown
  rw [hcommitted, hflags]
  exact ⟨hbit _, hbit _, hbit _, hbit _, hbit _, hbit _, hbit _, hbit _, hbit _⟩

/-- An update keeps both the register and its sibling showing their flags (R242, R243, R246). -/
theorem Tcsr.flagsShown_update {r q : Tcsr} (hr : r.flagsShown) (hq : q.flagsShown) :
    (r.update q).1.flagsShown ∧ (r.update q).2.flagsShown := by
  rcases Tcsr.update_spec r q with ⟨-, hclean⟩ | ⟨-, hcommitted, hflags, -, hsibling⟩
  · rw [hclean]; exact ⟨hr, hq⟩
  · refine ⟨flagsShown_of_committed hcommitted hflags, ?_⟩
    rw [hsibling]
    split
    · exact Tcsr.flagsShown_forceEnt true (Tcsr.flagsShown_forceEnall true hq)
    · exact hq

/-- Counting touches a control register only by forcing `tint` (R256, R257). -/
theorem TimerChannel.count_tcsr (c : Config) (ch : TimerChannel) :
    (ch.count c).tcsr = ch.tcsr ∨ (ch.count c).tcsr = ch.tcsr.forceTint true := by
  unfold TimerChannel.count
  split
  · simp only
    split
    · generalize ch.advance _ = adv
      cases adv.2
      · exact .inl rfl
      · exact .inr rfl
    · split <;> exact .inl rfl
  · exact .inl rfl

/-- Counting keeps the flags shown. -/
theorem TimerChannel.flagsShown_count (c : Config) {ch : TimerChannel} (h : ch.tcsr.flagsShown) :
    (ch.count c).tcsr.flagsShown := by
  rcases ch.count_tcsr c with hc | hc <;> rw [hc]
  · exact h
  · exact Tcsr.flagsShown_forceTint true h

/-- The counting half of a timer's tick keeps the flags shown. -/
theorem Timer.flagsShown_countBoth (c : Config) {t : Timer} (h : (DeviceState.timer t).flagsShown) :
    (DeviceState.timer (t.countBoth c)).flagsShown := by
  obtain ⟨h0, h1⟩ := h
  unfold Timer.countBoth
  split
  · exact ⟨h0, h1⟩
  · exact ⟨TimerChannel.flagsShown_count c h0, TimerChannel.flagsShown_count c h1⟩

/-- The commits of a timer's tick keep the flags shown. -/
theorem Timer.flagsShown_updateAll {t : Timer} (h : (DeviceState.timer t).flagsShown) :
    (DeviceState.timer t.updateAll).flagsShown := by
  obtain ⟨h0, h1⟩ := h
  obtain ⟨first, firstSibling⟩ := Tcsr.flagsShown_update h0 h1
  obtain ⟨second, secondSibling⟩ := Tcsr.flagsShown_update firstSibling first
  exact ⟨secondSibling, second⟩

/-- A device's tick keeps the flags shown (R256, R259). -/
theorem DeviceState.flagsShown_tick (c : Config) {d : DeviceState} (h : d.flagsShown) : (d.tick c).flagsShown := by
  cases d with
  | timer t => exact Timer.flagsShown_updateAll (Timer.flagsShown_countBoth c h)
  | byteStream b => trivial

/-- A store to a device register keeps the flags shown: it stages a value and decodes nothing (R241). -/
theorem DeviceState.flagsShown_putReg {d : DeviceState} (n : RegName) (v : Word) (h : d.flagsShown) :
    (d.putReg n v).flagsShown := by
  cases d with
  | timer t => cases n <;> exact h
  | byteStream b => trivial

/-- A device after its reset operation shows its flags: all are 0 (R260). -/
theorem DeviceState.flagsShown_zero (c : Config) (v : Variant) : (DeviceState.zero c v).flagsShown := by
  cases v
  · constructor <;> (unfold Tcsr.flagsShown; decide)
  · trivial

/-- A change of one device of a list that keeps a property of each device keeps it of all. -/
theorem forall_mem_modify {α : Type} {p : α → Prop} {l : List α} {n : Nat} {f : α → α} (hl : ∀ x ∈ l, p x)
    (hf : ∀ x, p x → p (f x)) : ∀ x ∈ l.modify n f, p x := by
  intro x hx
  obtain ⟨i, hi⟩ := List.mem_iff_getElem?.mp hx
  rw [List.getElem?_modify] at hi
  obtain ⟨y, hy, rfl⟩ := Option.map_eq_some_iff.mp hi
  have hpy : p y := hl y (List.mem_of_getElem? hy)
  split
  · exact hf y hpy
  · exact hpy

/-- A change of one element that keeps a value computed of it keeps the list of these values. -/
theorem map_modify_of_eq {α β : Type} {g : α → β} {f : α → α} (hf : ∀ x, g (f x) = g x) (l : List α) (n : Nat) :
    (l.modify n f).map g = l.map g := by
  refine List.ext_getElem? fun i => ?_
  rw [List.getElem?_map, List.getElem?_modify, List.getElem?_map]
  cases l[i]? with
  | none => rfl
  | some x =>
    by_cases h : n = i <;> simp [h, hf]

end Sys2Proof.Machine
end

section
/-! SUPPORT. The invariant stage by stage (10_state.md R36, R40, R45): an instruction's effect, the step of the execute slot, the
controller, an interrupt entry, the devices' half of the cycle and the reset operation each keep it; then O57 and O56. -/

namespace Sys2Proof.Machine

/-! ### Counters -/

/-- A decoded instruction's counters start at 1 or more (30_encoding.md R105, R110). -/
theorem decodeSlot_countersOk {c : Config} (h : c.wf = true) (f : FetchSlot) : (decodeSlot c f).countersOk := by
  have hlat := one_le_latencies_of_wf h
  constructor
  · show 1 ≤ (kindOf f.word).lat c
    cases kindOf f.word with
    | instr i => exact (hlat i.mnemonic).1
    | illegal w => exact Nat.le_refl 1
    | unfetchable => exact Nat.le_refl 1
  · intro n (hn : (kindOf f.word).clat c = some n)
    unfold InstKind.clat at hn
    split at hn <;> cases hn
    · exact (hlat .beqi).2
    · exact (hlat .blt).2

/-- Finalisation keeps an instruction's counters (40_engine.md R142). -/
theorem finalise_countersOk {s u : State} {inst r : Inst} (h : s.finalise inst = .next (r, u)) (hok : inst.countersOk) :
    r.countersOk := by
  rcases finalise_next h with ⟨-, -, rfl, -⟩ | ⟨-, -, rfl, -⟩ | ⟨-, -, rfl, -⟩ <;> exact hok

/-- A stepped instruction rests at a counter of 1 or more when it is given one. -/
theorem begun_countersOk (s : State) {inst : Inst} (hok : inst.countersOk) {n : Nat} (hn : 1 ≤ n) :
    ({ s.begun inst with cnt := n } : Inst).countersOk := by
  obtain ⟨-, -, -, hclat, -⟩ := begun_spec s inst
  exact ⟨hn, fun c hc => hok.2 c (hclat ▸ hc)⟩

/-! ### The stages -/

/-- A state that agrees in the configuration, the image and the devices' side meets the invariant when its counters do. -/
theorem State.Inv.of_counters {s t : State} (h : s.Inv) (hcfg : t.cfg = s.cfg) (hmem : t.mem = s.mem)
    (hdevices : t.devices = s.devices) (hirq : t.irqAgg = s.irqAgg) (hcounters : t.countersOk) : t.Inv where
  memory := by rw [hmem]; exact h.memory
  image := by unfold State.imageLoadable; rw [hmem, hcfg]; exact h.image
  counters := hcounters
  devices := by unfold State.devicesMatch; rw [hdevices, hcfg]; exact h.devices
  flags := by rw [hdevices]; exact h.flags
  aggregate := by rw [hirq, hdevices]; exact h.aggregate

/-- The counters of DE and EX with a new pending access. -/
theorem State.countersOk.withPend {s : State} (h : s.countersOk) {pend : Option Pending}
    (hpend : ∀ p, pend = some p → 1 ≤ p.cnt) : ({ s with pend := pend } : State).countersOk :=
  have ⟨hde, hex, _⟩ := h
  ⟨hde, hex, hpend⟩

/-- An empty slot has no counters. -/
theorem no_instance_counters : ∀ inst, (none : Option Inst) = some inst → inst.countersOk := fun _ h => by cases h

/-- Nothing pending has no counter. -/
theorem no_pending_counter : ∀ p, (none : Option Pending) = some p → 1 ≤ p.cnt := fun _ h => by cases h

/-- An aligned half-word stored to the image lies in the loadable regions (20_memory.md R65, R69, R84). -/
theorem imageLoadable_store {s : State} (hwf : s.cfg.wf = true) (h : s.imageLoadable) {ea d : Word}
    (heven : ea.toNat % 2 = 0) (himage : targetOf s.cfg ea = .image) :
    ∀ e ∈ s.mem.store s.cfg.bigEndian .half ea d, s.cfg.loadable (BitVec.ofNat 32 e.1) = true := by
  intro e he
  rcases Memory.mem_spread he with hkey | hold
  · have hea := loadable_of_target_image himage
    have hlt := ea.isLt
    obtain ⟨hlow, hhigh⟩ := mem_laneAddrs.mp hkey
    simp only [Width.bytes] at hhigh
    obtain hfirst | hsecond : e.1 = ea.toNat ∨ e.1 = ea.toNat + 1 := by omega
    · rw [hfirst, BitVec.ofNat_toNat, BitVec.setWidth_eq]
      exact hea
    · refine loadable_succ_of_even hwf heven ?_ hea
      rw [BitVec.toNat_ofNat, hsecond]
      omega
  · exact h e hold

/-- A half-word access keeps the invariant (43_load_store.md R190). -/
theorem AccessLeaves.inv {store : Bool} {ea : Word} {rD : RegIdx} {s t : State} (hwf : s.cfg.wf = true) (h : s.Inv)
    (ht : AccessLeaves store ea rD s t) : t.Inv := by
  cases ht with
  | unaligned => exact h.of_counters rfl rfl rfl rfl h.counters
  | waitsMapped p counting => exact h.of_counters rfl rfl rfl rfl (h.counters.withPend fun _ hp => by cases hp; exact counting)
  | waits p counting => exact h.of_counters rfl rfl rfl rfl (h.counters.withPend fun _ hp => by cases hp; exact counting)
  | loaded v bytes pulled => exact h.of_counters rfl rfl rfl rfl (h.counters.withPend no_pending_counter)
  | stored d isStore even image =>
    exact { memory := Memory.store_wf _ _ _ _ _ even h.memory
            image := imageLoadable_store hwf h.image even image
            counters := h.counters.withPend no_pending_counter
            devices := h.devices
            flags := h.flags
            aggregate := h.aggregate }
  | staged dev name v =>
    exact { memory := h.memory
            image := h.image
            counters := h.counters.withPend no_pending_counter
            devices := (map_modify_of_eq (fun d => d.putReg_variant name v) s.devices dev).trans h.devices
            flags := forall_mem_modify h.flags fun _ hd => DeviceState.flagsShown_putReg name v hd
            aggregate := h.aggregate.trans_eq (List.length_modify ..).symm }

/-- An instruction's effect keeps the invariant. -/
theorem ExecLeaves.inv {i : Instr} {s t : State} (hwf : s.cfg.wf = true) (h : s.Inv) (ht : ExecLeaves i s t) : t.Inv := by
  cases ht with
  | access store rD ea t accesses leaves => exact leaves.inv hwf h
  | writes | unknownSelector | notTaken | taken | prefixes | links | clears => exact h.of_counters rfl rfl rfl rfl h.counters

/-- The instruction in EX replaced by one whose counters are at 1 or more. -/
theorem State.Inv.withEx {s : State} (h : s.Inv) {e : Inst} (he : e.countersOk) : ({ s with ex := some e } : State).Inv :=
  have ⟨hde, _, hpend⟩ := h.counters
  h.of_counters rfl rfl rfl rfl ⟨hde, fun _ hx => by cases hx; exact he, hpend⟩

/-- The step of the execute slot keeps the invariant (40_engine.md R131). -/
theorem stepEx_inv {s t : State} (hwf : s.cfg.wf = true) (h : s.Inv) (hstep : s.stepEx = .next t) : t.Inv := by
  obtain ⟨-, hex, -⟩ := h.counters
  rcases stepEx_leaves hstep with ⟨inst, i, hinst, -, hleaves⟩ | ⟨st, rfl⟩ | ⟨inst, hinst, hrunning, rfl⟩
  · exact ExecLeaves.inv (s := s.resolved inst) hwf (h.withEx (begun_countersOk s (hex inst hinst) (Nat.le_refl 1))) hleaves
  · exact h.of_counters rfl rfl rfl rfl h.counters
  · have hcount : 1 ≤ (s.begun inst).cnt - 1 := by omega
    have held := h.withEx (begun_countersOk s (hex inst hinst) hcount)
    exact held.of_counters rfl rfl rfl rfl held.counters

/-- Retirement keeps the invariant (40_engine.md R143). -/
theorem retire_inv {s : State} (h : s.Inv) : s.retire.Inv := by
  refine h.of_counters s.retire_cfg s.retire_mem s.retire_devices s.retire_irqAgg ?_
  unfold State.countersOk
  rw [s.retire_de, s.retire_ex, s.retire_pend]
  exact h.counters

/-- Filling EX from DE keeps the invariant (40_engine.md R138, R142). -/
theorem fillEx_inv {s t : State} (h : s.Inv) (hfill : s.fillEx = .next t) : t.Inv := by
  obtain ⟨hde, -, hpend⟩ := h.counters
  rcases fillEx_next hfill with ⟨-, rfl⟩ | ⟨inst, r, u, hinst, hfinal, rfl⟩
  · exact h.of_counters rfl rfl rfl rfl ⟨hde, no_instance_counters, hpend⟩
  · have hr := finalise_countersOk hfinal (hde inst hinst)
    rcases finalise_next hfinal with ⟨-, -, -, rfl⟩ | ⟨-, -, -, rfl⟩ | ⟨-, -, -, rfl⟩
    · exact (h.of_counters (t := { s with immPend := false }) rfl rfl rfl rfl h.counters).withEx hr
    · exact h.withEx hr
    · exact h.withEx hr

/-- Decoding into DE and fetching into FE keep the invariant (40_engine.md R138). -/
theorem shiftFetch_inv {s : State} (hwf : s.cfg.wf = true) (h : s.Inv) : s.shiftFetch.Inv := by
  obtain ⟨-, hex, hpend⟩ := h.counters
  refine h.of_counters rfl rfl rfl rfl ⟨fun inst hinst => ?_, hex, hpend⟩
  obtain ⟨f, -, rfl⟩ := Option.map_eq_some_iff.mp hinst
  exact decodeSlot_countersOk hwf f

/-- Emptying the slots keeps the invariant (40_engine.md R139). -/
theorem emptySlots_inv {s : State} (h : s.Inv) : s.emptySlots.Inv :=
  have ⟨_, _, hpend⟩ := h.counters
  h.of_counters rfl rfl rfl rfl ⟨no_instance_counters, no_instance_counters, hpend⟩

/-- The controller keeps the invariant, whatever the status (40_engine.md R137 to R141). -/
theorem settle_inv {s t : State} (hwf : s.cfg.wf = true) (h : s.Inv) (hsettle : s.settle = .next t) : t.Inv := by
  rcases settle_next hsettle with ⟨-, hadvance⟩ | ⟨-, rfl⟩ | ⟨-, -, rfl⟩
  · obtain ⟨u, hfill, rfl⟩ := advance_next hadvance
    obtain ⟨ip, ex, hu⟩ := fillEx_keeps hfill
    have hcfg : u.cfg = s.cfg := by rw [hu, s.retire_cfg]
    exact shiftFetch_inv (hcfg ▸ hwf) (fillEx_inv (retire_inv h) hfill)
  · exact emptySlots_inv (retire_inv h)
  · exact h

/-- Interrupt entry keeps the invariant (60_exceptions.md R231). -/
theorem interruptEntry_inv {s : State} (h : s.Inv) : s.interruptEntry.Inv :=
  have emptied := emptySlots_inv h
  emptied.of_counters rfl rfl rfl rfl emptied.counters

/-- The devices' half of the cycle keeps the invariant (40_engine.md R146, 60_exceptions.md R251). -/
theorem endCycle_inv {s : State} (h : s.Inv) : s.endCycle.Inv where
  memory := h.memory
  image := h.image
  counters := h.counters
  devices := by
    have hvariant : DeviceState.variant ∘ DeviceState.tick s.cfg = DeviceState.variant :=
      funext (DeviceState.tick_variant s.cfg)
    unfold State.devicesMatch
    rw [State.endCycle_devices, State.endCycle_cfg, List.map_map, hvariant]
    exact h.devices
  flags := by
    intro d hd
    obtain ⟨e, he, rfl⟩ := List.mem_map.mp hd
    exact DeviceState.flagsShown_tick s.cfg (h.flags e he)
  aggregate := irqSum_le _

/-- The devices after reset are those configured, in registration order. -/
theorem powerOn_devicesMatch (c : Config) (image : Memory) : (State.powerOn c image).devicesMatch := by
  unfold State.devicesMatch
  rw [State.powerOn, List.map_map]
  exact List.map_congr_left fun d _ => DeviceState.zero_variant c d.variant

/-- The state after power-on meets the invariant if the image does: no slot holds anything, nothing pends, no device asks
(10_state.md R43). -/
theorem powerOn_inv {c : Config} {image : Memory} (hmemory : image.wf = true) (hloadable : (State.powerOn c image).imageLoadable) :
    (State.powerOn c image).Inv where
  memory := hmemory
  image := hloadable
  counters := ⟨no_instance_counters, no_instance_counters, no_pending_counter⟩
  devices := powerOn_devicesMatch c image
  flags := by
    intro d hd
    obtain ⟨e, -, rfl⟩ := List.mem_map.mp hd
    exact DeviceState.flagsShown_zero c e.variant
  aggregate := Nat.zero_le _

/-- The reset operation keeps the image, and so the invariant (70_reset_and_hazards.md R300 to R303). -/
theorem resetOp_inv {s : State} (h : s.Inv) : s.resetOp.Inv :=
  have restarted := powerOn_inv (c := s.cfg) h.memory h.image
  restarted.of_counters rfl rfl rfl rfl restarted.counters

/-! ### The statements -/

/-- Settles O57, stage by stage: a step is the reset operation, or a CPU tick (an interrupt entry, or the step of the execute slot
and the controller) with the devices' half behind it. -/
theorem stepKeepsInvariant : Obligations.StepKeepsInvariant := by
  intro s t h hstep
  obtain ⟨hwf, ⟨-, rfl⟩ | ⟨-, u, htick, rfl⟩⟩ := step_next hstep
  · exact resetOp_inv h
  · refine endCycle_inv ?_
    rcases cpuTick_next htick with ⟨-, rfl⟩ | ⟨-, v, hex, hsettle⟩
    · exact interruptEntry_inv h
    · obtain ⟨_, _, _, _, _, _, _, _, _, _, _, _, _, _, hv⟩ := stepEx_keeps hex
      have hcfg : v.cfg = s.cfg := by rw [hv]
      exact settle_inv (hcfg ▸ hwf) (stepEx_inv hwf h hex) hsettle

/-- Settles O56: the state after reset is a power-on state with an empty image and empty slots. -/
theorem resetMeetsInvariant : Obligations.ResetMeetsInvariant :=
  ⟨powerOn_inv rfl (fun _ he => by cases he), ⟨fun hex => (by cases hex), fun hde => (by cases hde)⟩, rfl⟩

end Sys2Proof.Machine
end

section
/-! SUPPORT. MFS by the selector it names (44_special.md R200): O23. -/

namespace Sys2Proof.Machine

/-- A selector from 0x2000 on names a PVR, by its distance from there (44_special.md R200). -/
theorem special_pvr {s : State} {sel : BitVec 14} {n : Nat} (h : sel.toNat = 0x2000 + n) : s.special sel = s.cfg.pvr[n]? := by
  have hne : ∀ k : BitVec 14, k.toNat < 0x2000 → sel ≠ k := fun k hk e => by subst e; omega
  simp [State.special, hne, h]

/-- MFS of a selector that names a register writes it to rD and nothing else (44_special.md R200). -/
theorem exec_mfs_of_special {s : State} {rD : RegIdx} {sel : BitVec 14} {v : Word} (h : s.special sel = some v) :
    ∃ t, exec (.mfs rD sel) s = .next t ∧ WritesOnly rD v s t ∧ t.msr = s.msr := by
  refine ⟨(s.writeReg rD v).withStatus .normal, ?_, writesOnly_writeReg s rD v s.msr, rfl⟩
  simp only [exec, execMfs, h]

/-- Settles O23: the six selectors below 0x2000 one by one, the PVRs by their distance. -/
theorem mfsReadsSpecialRegister : Obligations.MfsReadsSpecialRegister := by
  intro rD sel v s inst hex hsel
  apply exec_mfs_of_special
  rcases hsel with hnamed | ⟨n, hplace, hpvr⟩
  · simp only [List.mem_cons, Prod.mk.injEq, List.not_mem_nil, or_false] at hnamed
    have hipc : s.ipc = inst.ipc := by simp [State.ipc, hex]
    rcases hnamed with ⟨rfl, rfl⟩ | ⟨rfl, rfl⟩ | ⟨rfl, rfl⟩ | ⟨rfl, rfl⟩ | ⟨rfl, rfl⟩ | ⟨rfl, rfl⟩ <;>
      simp [State.special, hipc]
  · rw [special_pvr hplace]
    exact hpvr

end Sys2Proof.Machine
end

section
/-! SUPPORT. The region of an address, what it stands for, whose latency it has (20_memory.md R64 to R66), and REGMAP as the wiring of
a well-formed configuration (R84, 10_state.md R35): O31. -/

namespace Sys2Proof.Machine

/-! ### Regions, targets, latencies -/

/-- The local-fast region comes first (R64). -/
theorem regionOf_lmb {c : Config} {a : Word} (h : c.lmb.contains a = true) : regionOf c a = .lmb := by
  simp [regionOf, h]

/-- The bus-peripheral region comes second (R64). -/
theorem regionOf_opb {c : Config} {a : Word} {b : Bounds} (hlmb : c.lmb.contains a = false) (hb : c.opb = some b)
    (h : b.contains a = true) : regionOf c a = .opb := by
  simp [regionOf, hlmb, hb, h]

/-- Every other address lies in the mapped fallback (R64). -/
theorem regionOf_map {c : Config} {a : Word} (hlmb : c.lmb.contains a = false)
    (h : ∀ b, c.opb = some b → b.contains a = false) : regionOf c a = .map := by
  cases hopb : c.opb with
  | none => simp [regionOf, hlmb, hopb]
  | some b => simp [regionOf, hlmb, hopb, h b hopb]

/-- What an address stands for follows from its region and REGMAP (R65). -/
theorem targetOf_eq (c : Config) (a : Word) :
    (regionOf c a = .lmb → targetOf c a = .image) ∧
    (regionOf c a = .opb → targetOf c a = (regMap c a).elim .image .register) ∧
    (regionOf c a = .map → targetOf c a = (regMap c a).elim .unmapped .register) := by
  refine ⟨fun h => ?_, fun h => ?_, fun h => ?_⟩ <;> simp only [targetOf, h] <;> cases regMap c a <;> rfl

/-- A register has its device's latencies (R66). -/
theorem accessLatency_register {c : Config} {a : Word} {r : RegRef} (k : BusKind) (h : targetOf c a = .register r) :
    accessLatency c k a = latencyFor r.lat k := by
  simp [accessLatency, h]

/-- What is no register has its region's latencies (R66). -/
theorem accessLatency_region {c : Config} {a : Word} (k : BusKind) (h : ∀ r, targetOf c a ≠ .register r) :
    (regionOf c a = .lmb → accessLatency c k a = latencyFor c.lmbLat k) ∧
    (regionOf c a = .opb → accessLatency c k a = latencyFor c.opbLat k) ∧
    (regionOf c a = .map → accessLatency c k a = latencyFor c.mapLat k) := by
  unfold accessLatency
  cases htarget : targetOf c a with
  | register r => exact absurd htarget (h r)
  | image | unmapped => refine ⟨fun hr => ?_, fun hr => ?_, fun hr => ?_⟩ <;> simp only [hr]

/-! ### REGMAP -/

/-- `a & ~3` is the multiple of 4 at or below `a`. -/
theorem wordAddr_eq (a : Word) : wordAddr a = BitVec.ofNat 32 (a.toNat / 4 * 4) := by
  have hclear : wordAddr a = (a >>> 2) <<< 2 := by
    refine BitVec.eq_of_getLsbD_eq fun i hi => ?_
    interval_cases i <;> simp [wordAddr]
  have hlt := a.isLt
  apply BitVec.eq_of_toNat_eq
  rw [hclear]
  simp only [BitVec.toNat_shiftLeft, BitVec.toNat_ushiftRight, Nat.shiftRight_eq_div_pow, Nat.shiftLeft_eq, BitVec.toNat_ofNat]

/-- No address occurs twice in a list that passes the check. -/
theorem addrsDistinct_iff {l : List Word} : addrsDistinct l = true ↔ l.Nodup := by
  induction l with
  | nil => simp [addrsDistinct]
  | cons a rest ih => simp [addrsDistinct, ih]

/-- The address at which a register is wired is among the list's addresses. -/
theorem mem_addrs_of_wired {a : Word} {regs : List (RegName × Word)} {n : RegName} (h : (n, a) ∈ regs) :
    a ∈ regs.map Prod.snd := List.mem_map_of_mem h

/-- In a list without a repeated address, the name found at an address is the one wired there. -/
theorem regNameAt_iff {a : Word} {regs : List (RegName × Word)} (h : (regs.map Prod.snd).Nodup) {n : RegName} :
    regNameAt a regs = some n ↔ (n, a) ∈ regs := by
  induction regs with
  | nil => simp [regNameAt]
  | cons e rest ih =>
    obtain ⟨m, b⟩ := e
    rw [List.map_cons, List.nodup_cons] at h
    obtain ⟨hfresh, hrest⟩ := h
    rw [regNameAt, List.mem_cons, Prod.mk.injEq]
    split
    · rename_i hba
      subst hba
      have hout : (n, b) ∉ rest := fun hin => hfresh (mem_addrs_of_wired hin)
      simp [hout, eq_comm]
    · rename_i hba
      simp [ih hrest, Ne.symm hba]

/-- REGMAP over a list of devices whose register addresses are all different: the register wired at the address in one of them, with
that device's place and latencies (10_state.md R35). -/
theorem regMapFrom_iff {a : Word} {devices : List DeviceCfg} (h : (devices.flatMap (fun d => d.regs.map Prod.snd)).Nodup)
    (i : Nat) {r : RegRef} :
    regMapFrom a i devices = some r ↔
      ∃ j d, devices[j]? = some d ∧ r.dev = i + j ∧ (r.name, a) ∈ d.regs ∧ r.lat = d.lat := by
  induction devices generalizing i with
  | nil => simp [regMapFrom]
  | cons e rest ih =>
    rw [List.flatMap_cons, List.nodup_append'] at h
    obtain ⟨hown, hrest, hdisjoint⟩ := h
    rw [regMapFrom]
    cases hname : regNameAt a e.regs with
    | some n =>
      have hwired := (regNameAt_iff hown).mp hname
      constructor
      · intro hr
        cases hr
        exact ⟨0, e, rfl, rfl, hwired, rfl⟩
      · rintro ⟨j, d, hd, hdev, hreg, hlat⟩
        cases j with
        | zero =>
          cases hd
          have hn := (regNameAt_iff hown).mpr hreg
          rw [hname] at hn
          cases hn
          obtain ⟨dev, name, lat⟩ := r
          simp_all
        | succ j =>
          refine absurd ?_ (hdisjoint (mem_addrs_of_wired hwired))
          exact List.mem_flatMap.mpr ⟨d, List.mem_of_getElem? hd, mem_addrs_of_wired hreg⟩
    | none =>
      have hnot : ∀ n, (n, a) ∉ e.regs := fun n hin => by
        rw [(regNameAt_iff hown).mpr hin] at hname
        cases hname
      simp only
      rw [ih hrest]
      constructor
      · rintro ⟨j, d, hd, hdev, hreg, hlat⟩
        exact ⟨j + 1, d, hd, by omega, hreg, hlat⟩
      · rintro ⟨j, d, hd, hdev, hreg, hlat⟩
        cases j with
        | zero => cases hd; exact absurd hreg (hnot _)
        | succ j => exact ⟨j, d, hd, by omega, hreg, hlat⟩

/-- REGMAP of a well-formed configuration is its wiring (10_state.md R35, 20_memory.md R84). -/
theorem regMap_iff_of_wf {c : Config} (h : c.wf = true) {a : Word} {r : RegRef} :
    regMap c a = some r ↔
      ∃ d, c.devices[r.dev]? = some d ∧ (r.name, BitVec.ofNat 32 (a.toNat / 4 * 4)) ∈ d.regs ∧ r.lat = d.lat := by
  obtain ⟨-, -, -, -, -, haddrs⟩ := wf_parts h
  obtain ⟨-, hdistinct⟩ := Bool.and_eq_true_iff.mp haddrs
  rw [regMap, wordAddr_eq, regMapFrom_iff (addrsDistinct_iff.mp hdistinct)]
  constructor
  · rintro ⟨j, d, hd, hdev, hreg, hlat⟩
    rw [Nat.zero_add] at hdev
    exact ⟨d, hdev ▸ hd, hreg, hlat⟩
  · rintro ⟨d, hd, hreg, hlat⟩
    exact ⟨r.dev, d, hd, (Nat.zero_add _).symm, hreg, hlat⟩

/-! ### The statement -/

/-- Settles O31: the three regions in their order, then the wiring. -/
theorem regionDecidesTargetAndLatency : Obligations.RegionDecidesTargetAndLatency := by
  intro c a k
  obtain ⟨atLmb, atOpb, atMap⟩ := targetOf_eq c a
  refine ⟨fun hin => ?_, fun hout => ⟨fun b hb hin => ?_, fun hnone => ?_⟩, fun hwf r => regMap_iff_of_wf hwf⟩
  · have hregion := regionOf_lmb (contains_iff.mpr hin)
    have htarget := atLmb hregion
    exact ⟨hregion, htarget, (accessLatency_region k fun r => by simp [htarget]).1 hregion⟩
  · have hlmb : c.lmb.contains a = false := by rwa [← Bool.not_eq_true, contains_iff]
    have hregion := regionOf_opb hlmb hb (contains_iff.mpr hin)
    have htarget := atOpb hregion
    refine ⟨hregion, fun r hr => ?_, fun hr => ?_⟩ <;> rw [hr] at htarget
    · exact ⟨htarget, accessLatency_register k htarget⟩
    · exact ⟨htarget, (accessLatency_region k fun r => by simp [htarget]).2.1 hregion⟩
  · have hlmb : c.lmb.contains a = false := by rwa [← Bool.not_eq_true, contains_iff]
    have hregion := regionOf_map hlmb fun b hb => by
      rw [← Bool.not_eq_true, contains_iff]
      exact hnone b hb
    have htarget := atMap hregion
    refine ⟨hregion, fun r hr => ?_, fun hr => ?_⟩ <;> rw [hr] at htarget
    · exact ⟨htarget, accessLatency_register k htarget⟩
    · exact ⟨htarget, (accessLatency_region k fun r => by simp [htarget]).2.2 hregion⟩

end Sys2Proof.Machine
end

section
/-! SUPPORT. Who writes EAR, ESR, FSR, BTR and the image (10_state.md R24 to R27, R41): an instruction's effect first, then the step of
the execute slot, then the cycle: O52 and O53. -/

namespace Sys2Proof.Machine

/-! ### The exception registers -/

/-- What `t` holds in EAR, ESR, FSR and BTR against `s`, behind the effect of `i` (10_state.md R24 to R27). -/
structure ExceptionRegsWritten (i : Instr) (s t : State) : Prop where
  ear : t.ear = s.ear ∨ ((t.status = .memUnaligned ∨ t.status = .memMapped) ∧
    ∃ store rD ea, AccessOf store i s rD ea ∧ t.ear = ea)
  esr : t.esr = s.esr ∨ t.status = .memUnaligned
  fsr : t.fsr = s.fsr
  btr : t.btr = s.btr

/-- Registers left as they are need no writer. -/
theorem ExceptionRegsWritten.of_same {i : Instr} {s t : State} (h : SameExceptionRegs s t) : ExceptionRegsWritten i s t :=
  have ⟨hear, hesr, hfsr, hbtr⟩ := h
  ⟨.inl hear, .inl hesr, hfsr, hbtr⟩

/-- An instruction's effect writes EAR only as a half-word access that is unaligned or waits in the fallback, and ESR only on
MEM_UNALIGNED (60_exceptions.md R223, 43_load_store.md R190). -/
theorem ExecLeaves.exceptionRegs {i : Instr} {s t : State} (h : ExecLeaves i s t) : ExceptionRegsWritten i s t := by
  cases h with
  | access store rD ea t accesses leaves =>
    cases leaves with
    | unaligned => exact ⟨.inr ⟨.inl rfl, store, rD, ea, accesses, rfl⟩, .inr rfl, rfl, rfl⟩
    | waitsMapped => exact ⟨.inr ⟨.inr rfl, store, rD, ea, accesses, rfl⟩, .inl rfl, rfl, rfl⟩
    | waits | loaded | stored | staged => exact .of_same ⟨rfl, rfl, rfl, rfl⟩
  | writes | unknownSelector | notTaken | taken | prefixes | links | clears => exact .of_same ⟨rfl, rfl, rfl, rfl⟩

/-- Settles O52: an interrupt entry and the controller write none of the four, the step of the execute slot only as the access in the
slot does. -/
theorem exceptionRegisterWriters : Obligations.ExceptionRegisterWriters := by
  intro s t hrst hstep
  rcases cycle_next hrst hstep with ⟨-, rfl⟩ | ⟨-, u, v, hex, hsettle, rfl⟩
  · exact ⟨fun h => absurd rfl h, fun h => absurd rfl h, rfl, rfl⟩
  · obtain ⟨_, _, _, _, _, _, _, _, rfl⟩ := settle_keeps hsettle
    rcases stepEx_leaves hex with ⟨inst, i, hinst, hkind, hleaves⟩ | ⟨st, rfl⟩ | ⟨inst, -, -, rfl⟩
    · obtain ⟨hear, hesr, hfsr, hbtr⟩ := hleaves.exceptionRegs
      refine ⟨fun hne => ?_, fun hne => hesr.resolve_left hne, hfsr, hbtr⟩
      obtain ⟨hstatus, store, rD, ea, haccess, heq⟩ := hear.resolve_left hne
      exact ⟨hstatus, inst, i, store, rD, ea, hinst, hkind, (accessOf_resolved hinst).mp haccess, heq⟩
    · exact ⟨fun h => absurd rfl h, fun h => absurd rfl h, rfl, rfl⟩
    · exact ⟨fun h => absurd rfl h, fun h => absurd rfl h, rfl, rfl⟩

/-! ### The image -/

/-- An instruction's effect changes the image only as a completing store, at its two bytes (20_memory.md R69, R76). -/
theorem ExecLeaves.mem {i : Instr} {s t : State} (h : ExecLeaves i s t) :
    t.mem = s.mem ∨ (t.status = .normal ∧ ∃ rD ea d, AccessOf true i s rD ea ∧ ea.toNat % 2 = 0 ∧
      t.mem = s.mem.store s.cfg.bigEndian .half ea d) := by
  cases h with
  | access store rD ea t accesses leaves =>
    cases leaves with
    | stored d isStore even image =>
      subst isStore
      exact .inr ⟨rfl, rD, ea, d, accesses, even, rfl⟩
    | unaligned | waitsMapped | waits | loaded | staged => exact .inl rfl
  | writes | unknownSelector | notTaken | taken | prefixes | links | clears => exact .inl rfl

/-- A stored half-word leaves every byte outside its two as it was (20_memory.md R69). -/
theorem read_store_half_outside (m : Memory) (big : Bool) (ea d : Word) {a : Nat} (h0 : a ≠ ea.toNat) (h1 : a ≠ ea.toNat + 1) :
    (m.store big .half ea d).read a = m.read a :=
  Memory.read_store_outside m big .half ea d (by simp only [Width.bytes]; omega)

/-- Settles O53: the reset operation, an interrupt entry and the controller keep the image, and so does the step of the execute slot but
for a completing store. -/
theorem onlyStoresChangeMemory : Obligations.OnlyStoresChangeMemory := by
  intro s t hstep hne
  cases hrst : s.rst with
  | true =>
    obtain ⟨-, ⟨-, rfl⟩ | ⟨hlow, -⟩⟩ := step_next hstep
    · exact absurd rfl hne
    · simp [hrst] at hlow
  | false =>
    rcases cycle_next hrst hstep with ⟨-, rfl⟩ | ⟨-, u, v, hex, hsettle, rfl⟩
    · exact absurd rfl hne
    · obtain ⟨_, _, _, _, _, _, _, _, rfl⟩ := settle_keeps hsettle
      rcases stepEx_leaves hex with ⟨inst, i, hinst, hkind, hleaves⟩ | ⟨st, rfl⟩ | ⟨inst, -, -, rfl⟩
      · obtain ⟨hstatus, rD, ea, d, haccess, heven, hmem⟩ := hleaves.mem.resolve_left hne
        refine ⟨hstatus, inst, i, rD, ea, hinst, hkind, (accessOf_resolved hinst).mp haccess, heven, fun a h0 h1 => ?_⟩
        exact (congrArg (Memory.read · a) hmem).trans (read_store_half_outside _ _ _ _ h0 h1)
      · exact absurd rfl hne
      · exact absurd rfl hne

end Sys2Proof.Machine
end

section
/-! SUPPORT. Who writes MSR (10_state.md R23, R42): the delay-slot bit at a retirement, the three instructions and the interrupt entry
that write it, and the carry and the enable bit through each of them: O51. -/

namespace Sys2Proof.Machine

/-! ### Masking bits -/

/-- Clearing bits outside a mask keeps what the mask shows. -/
theorem and_not_and_of_disjoint {d c : Word} (h : d &&& c = 0) (x : Word) : x &&& ~~~d &&& c = x &&& c := by
  have hclear : ~~~d &&& c = c := by
    refine BitVec.eq_of_getLsbD_eq fun i hi => ?_
    have hbit := congrArg (BitVec.getLsbD · i) h
    simp only [BitVec.getLsbD_and] at hbit
    simp only [BitVec.getLsbD_and, BitVec.getLsbD_not, hi, decide_true, Bool.true_and]
    cases hd : d.getLsbD i <;> simp_all
  rw [BitVec.and_assoc, hclear]

/-- Setting bits outside a mask keeps what the mask shows. -/
theorem or_and_of_disjoint {d c : Word} (h : d &&& c = 0) (x : Word) : (x ||| d) &&& c = x &&& c := by
  refine BitVec.eq_of_getLsbD_eq fun i _ => ?_
  have hbit := congrArg (BitVec.getLsbD · i) h
  simp only [BitVec.getLsbD_and] at hbit
  simp only [BitVec.getLsbD_and, BitVec.getLsbD_or]
  cases hd : d.getLsbD i <;> simp_all

/-- A clear bit stays clear when bits are cleared. -/
theorem and_and_eq_zero {x c : Word} (h : x &&& c = 0) (y : Word) : x &&& y &&& c = 0 := by
  rw [BitVec.and_assoc, BitVec.and_comm y, ← BitVec.and_assoc, h]
  exact BitVec.zero_and

/-- No bit lies both in a mask and outside it. -/
theorem mask_and_not_mask (x : Word) : x &&& ~~~x = 0 := by
  simp

/-! ### The delay-slot bit at a retirement -/

/-- MSR and the delay-slot mark behind the controller, from the configuration, the instruction in EX, the mark, the status and MSR before
it (93_implementation_defined.md U5). -/
def delaySlotAfter (c : Config) (ex : Option Inst) (armed : Bool) (st : Status) (m : Word) : Word × Bool :=
  match c.dsClear, ex with
  | .nextRetire, some inst =>
    if st ≠ .normal ∧ st ≠ .jump then (m, armed)
    else if inst.kind.isBralid then (m, true)
    else if armed then (m &&& ~~~c.msrDs, false)
    else (m, false)
  | _, _ => (m, armed)

/-- With DS_CLEAR = never MSR and the mark stay. -/
theorem delaySlotAfter_never {c : Config} (h : c.dsClear = .never) (ex : Option Inst) (armed : Bool) (st : Status) (m : Word) :
    delaySlotAfter c ex armed st m = (m, armed) := by
  simp [delaySlotAfter, h]

/-- With an empty execute slot nothing retires, and MSR and the mark stay. -/
theorem delaySlotAfter_empty (c : Config) (armed : Bool) (st : Status) (m : Word) :
    delaySlotAfter c none armed st m = (m, armed) := by
  cases h : c.dsClear <;> simp [delaySlotAfter, h]

/-- On a status that retires nothing MSR and the mark stay. -/
theorem delaySlotAfter_held {st : Status} (hnormal : st ≠ .normal) (hjump : st ≠ .jump) (c : Config) (ex : Option Inst)
    (armed : Bool) (m : Word) : delaySlotAfter c ex armed st m = (m, armed) := by
  unfold delaySlotAfter
  split <;> simp [hnormal, hjump]

/-- Of the instruction in EX only its kind counts. -/
theorem delaySlotAfter_congr {e e' : Option Inst} (h : e.map Inst.kind = e'.map Inst.kind) (c : Config) (armed : Bool)
    (st : Status) (m : Word) : delaySlotAfter c e armed st m = delaySlotAfter c e' armed st m :=
  match e, e', h with
  | none, none, _ => rfl
  | some inst, some inst', h => by
    have hkind : inst.kind = inst'.kind := Option.some.inj h
    cases hclear : c.dsClear <;> simp [delaySlotAfter, hclear, hkind]

/-- Only the delay-slot bit of MSR may change. -/
theorem delaySlotAfter_and {c : Config} {x : Word} (h : c.msrDs &&& x = 0) (ex : Option Inst) (armed : Bool) (st : Status)
    (m : Word) : (delaySlotAfter c ex armed st m).1 &&& x = m &&& x := by
  unfold delaySlotAfter
  split
  · split
    · rfl
    · split
      · rfl
      · split
        · exact and_not_and_of_disjoint h m
        · rfl
  · rfl

/-- What a retirement leaves in MSR and in the mark (40_engine.md R143, 93_implementation_defined.md U5). -/
theorem retire_delaySlot {s : State} (hstatus : s.status = .normal ∨ s.status = .jump) :
    (s.retire.msr, s.retire.dsArmed) = delaySlotAfter s.cfg s.ex s.dsArmed s.status s.msr := by
  have hretires : ¬ (s.status ≠ .normal ∧ s.status ≠ .jump) := by tauto
  unfold State.retire
  cases hex : s.ex with
  | none => exact (delaySlotAfter_empty ..).symm
  | some inst =>
    cases hclear : s.cfg.dsClear with
    | never => simp [delaySlotAfter, State.clearDelaySlotBit, hclear]
    | nextRetire =>
      simp only [delaySlotAfter, State.clearDelaySlotBit, hclear, if_neg hretires]
      by_cases hbralid : inst.kind.isBralid = true
      · simp [hbralid]
      · cases harmed : s.dsArmed <;> simp [hbralid, harmed, State.msrWithoutDs]

/-- What the controller leaves in MSR and in the mark (40_engine.md R137 to R143). -/
theorem settle_delaySlot {s t : State} (h : s.settle = .next t) :
    (t.msr, t.dsArmed) = delaySlotAfter s.cfg s.ex s.dsArmed s.status s.msr := by
  rcases settle_next h with ⟨hnormal, hadvance⟩ | ⟨hjump, rfl⟩ | ⟨hnormal, hjump, rfl⟩
  · obtain ⟨u, hfill, rfl⟩ := advance_next hadvance
    obtain ⟨ip, ex, rfl⟩ := fillEx_keeps hfill
    exact retire_delaySlot (.inl hnormal)
  · exact retire_delaySlot (.inr hjump)
  · exact (delaySlotAfter_held hnormal hjump ..).symm

/-! ### The writers of MSR -/

/-- MSR behind an instruction's effect: as it was, or as a firing MSRCLR or BRALID leaves it (44_special.md R201, 42_branch.md R182). -/
theorem ExecLeaves.msr {i : Instr} {s t : State} (h : ExecLeaves i s t) :
    t.msr = s.msr ∨
    (∃ rD imm15, i = .msrclr rD imm15 ∧ t.status = .normal ∧ t.msr = s.msrCleared imm15) ∨
    (∃ rD imm16, i = .bralid rD imm16 ∧ t.status = .jump ∧ t.msr = s.msrWithDs) := by
  cases h with
  | access store rD ea t accesses leaves => cases leaves <;> exact .inl rfl
  | clears rD imm15 isMsrclr => exact .inr (.inl ⟨rD, imm15, isMsrclr, rfl, rfl⟩)
  | links rD imm16 isBralid => exact .inr (.inr ⟨rD, imm16, isBralid, rfl, rfl⟩)
  | writes | unknownSelector | notTaken | taken | prefixes => exact .inl rfl

/-- MSR behind the step of the execute slot. -/
theorem stepEx_msr {s t : State} (h : s.stepEx = .next t) :
    t.msr = s.msr ∨
    (∃ inst rD imm15, s.ex = some inst ∧ inst.kind = .instr (.msrclr rD imm15) ∧ t.status = .normal ∧
      t.msr = s.msrCleared imm15) ∨
    (∃ inst rD imm16, s.ex = some inst ∧ inst.kind = .instr (.bralid rD imm16) ∧ t.status = .jump ∧ t.msr = s.msrWithDs) := by
  rcases stepEx_leaves h with ⟨inst, i, hinst, hkind, hleaves⟩ | ⟨st, rfl⟩ | ⟨inst, -, -, rfl⟩
  · rcases hleaves.msr with hsame | ⟨rD, imm15, rfl, hstatus, hmsr⟩ | ⟨rD, imm16, rfl, hstatus, hmsr⟩
    · exact .inl hsame
    · exact .inr (.inl ⟨inst, rD, imm15, hinst, hkind, hstatus, hmsr⟩)
    · exact .inr (.inr ⟨inst, rD, imm16, hinst, hkind, hstatus, hmsr⟩)
  · exact .inl rfl
  · exact .inl rfl

/-- The step of the execute slot keeps the kind of the instruction in EX. -/
theorem stepEx_exKind {s t : State} (h : s.stepEx = .next t) : t.ex.map Inst.kind = s.ex.map Inst.kind := by
  rcases stepEx_next h with ⟨-, rfl⟩ | ⟨_, -, -, rfl⟩ | ⟨_, _, -, -, -, rfl⟩ | ⟨inst, _, hinst, -, -, -, rfl⟩ |
    ⟨inst, i, hinst, -, -, -, hexec⟩
  · rfl
  · rfl
  · rfl
  · rw [hinst]; exact congrArg some (begun_spec s inst).1
  · obtain ⟨_, _, _, _, _, _, _, _, _, _, _, _, _, rfl⟩ := exec_keeps hexec
    rw [hinst]; exact congrArg some (begun_spec s inst).1

/-- What the step of the execute slot and the controller leave in MSR and in the mark. -/
theorem cycle_delaySlot {s u v : State} (hex : s.stepEx = .next u) (hsettle : u.settle = .next v) :
    (v.msr, v.dsArmed) = delaySlotAfter s.cfg s.ex s.dsArmed v.status u.msr := by
  have hkind := stepEx_exKind hex
  obtain ⟨hcfg, harmed⟩ : u.cfg = s.cfg ∧ u.dsArmed = s.dsArmed := by
    obtain ⟨_, _, _, _, _, _, _, _, _, _, _, _, _, _, rfl⟩ := stepEx_keeps hex
    exact ⟨rfl, rfl⟩
  rw [settle_delaySlot hsettle, settle_status hsettle, hcfg, harmed, delaySlotAfter_congr hkind]

/-! ### The carry and the enable bit -/

/-- From the word `m` to the word `m'` the carry bit is kept and the enable bit is not set (10_state.md R42). -/
def CarryKept (c : Config) (m m' : Word) : Prop :=
  m' &&& c.msrC = m &&& c.msrC ∧ (m &&& c.msrIe = 0 → m' &&& c.msrIe = 0)

/-- Interrupt entry clears the enable bit alone (60_exceptions.md R231). -/
theorem carryKept_msrWithoutIe {s : State} (h : s.cfg.wf = true) : CarryKept s.cfg s.msr s.msrWithoutIe :=
  have ⟨hcarry, _, _⟩ := masks_disjoint_of_wf h
  ⟨and_not_and_of_disjoint hcarry s.msr, fun hclear => and_and_eq_zero hclear _⟩

/-- The step of the execute slot keeps the carry and does not set the enable bit. -/
theorem stepEx_carryKept {s t : State} (hwf : s.cfg.wf = true) (h : s.stepEx = .next t) : CarryKept s.cfg s.msr t.msr := by
  obtain ⟨-, hdsCarry, hdsIe⟩ := masks_disjoint_of_wf hwf
  rcases stepEx_msr h with hsame | ⟨_, _, imm15, -, -, -, hmsr⟩ | ⟨_, _, _, -, -, -, hmsr⟩
  · rw [hsame]; exact ⟨rfl, id⟩
  · rw [hmsr]
    have hmask : imm15.setWidth 32 &&& ~~~s.cfg.msrC &&& s.cfg.msrC = 0 := by
      rw [BitVec.and_assoc, BitVec.and_comm _ s.cfg.msrC, mask_and_not_mask]
      exact BitVec.and_zero
    exact ⟨and_not_and_of_disjoint hmask s.msr, fun hclear => and_and_eq_zero hclear _⟩
  · rw [hmsr]
    exact ⟨or_and_of_disjoint hdsCarry s.msr, fun hclear => (or_and_of_disjoint hdsIe s.msr).trans hclear⟩

/-- The delay-slot bit is neither the carry nor the enable bit, so the controller keeps both. -/
theorem carryKept_delaySlotAfter {c : Config} (hwf : c.wf = true) {m m' : Word} (h : CarryKept c m m') (ex : Option Inst)
    (armed : Bool) (st : Status) : CarryKept c m (delaySlotAfter c ex armed st m').1 := by
  obtain ⟨-, hdsCarry, hdsIe⟩ := masks_disjoint_of_wf hwf
  obtain ⟨hcarry, henable⟩ := h
  exact ⟨(delaySlotAfter_and hdsCarry ..).trans hcarry, fun hclear => (delaySlotAfter_and hdsIe ..).trans (henable hclear)⟩

/-- Settles O51: the statement's function of MSR is `delaySlotAfter` at the status of the cycle. -/
theorem carryKeptEnableNeverSet : Obligations.CarryKeptEnableNeverSet := by
  intro s t hrst hstep msrOf
  have hmsrOf : msrOf = delaySlotAfter s.cfg s.ex s.dsArmed t.status := rfl
  obtain ⟨hwf, -⟩ := step_next hstep
  rcases cycle_next hrst hstep with ⟨haccept, rfl⟩ | ⟨haccept, u, v, hex, hsettle, rfl⟩
  · exact ⟨fun _ => ⟨rfl, rfl⟩, fun hno => (by simp [haccept] at hno), carryKept_msrWithoutIe hwf⟩
  · have hmark := cycle_delaySlot hex hsettle
    have hkept := carryKept_delaySlotAfter hwf (stepEx_carryKept hwf hex) s.ex s.dsArmed v.status
    rw [← hmark] at hkept
    refine ⟨fun hyes => (by simp [haccept] at hyes), fun _ => ?_, hkept⟩
    have hstatus := settle_status hsettle
    rw [hmsrOf]
    rcases stepEx_msr hex with hsame | ⟨inst, rD, imm15, hinst, hkind, hnormal, hmsr⟩ |
      ⟨inst, rD, imm16, hinst, hkind, hjump, hmsr⟩
    · rw [hsame] at hmark
      exact .inl hmark
    · rw [hmsr] at hmark
      exact .inr (.inl ⟨inst, rD, imm15, hinst, hkind, hstatus.trans hnormal, hmark⟩)
    · rw [hmsr] at hmark
      exact .inr (.inr ⟨inst, rD, imm16, hinst, hkind, hstatus.trans hjump, hmark⟩)

end Sys2Proof.Machine
end

section
/-! SUPPORT. What a fetch reads (20_memory.md R82), what the filling of EX puts there (40_engine.md R138, R142), and the advance on
NORMAL: O42. -/

namespace Sys2Proof.Machine

/-! ### The fetch -/

/-- A fetch reads the image and the configuration alone. -/
theorem State.fetch_congr {s t : State} (hcfg : t.cfg = s.cfg) (hmem : t.mem = s.mem) (p : Word) : t.fetch p = s.fetch p := by
  simp only [State.fetch, hcfg, hmem]

/-- In a configuration that may run, a fetch reads the image word at a multiple of 4 outside the mapped fallback (20_memory.md R82). -/
theorem fetch_of_wf {s : State} (h : s.cfg.wf = true) (p : Word) :
    s.fetch p = if p.toNat % 4 = 0 ∧ regionOf s.cfg p ≠ .map then s.mem.load s.cfg.bigEndian .word p else none := by
  rw [State.fetch, instrBytes_of_wf h]

/-- A word with an absent byte loads as none (20_memory.md R73, log entry 7). -/
theorem load_word_none {m : Memory} {big : Bool} {p : Word} {k : Nat} (hk : k < 4) (h : m.read (p.toNat + k) = none) :
    m.load big .word p = none := by
  cases hload : m.load big .word p with
  | none => rfl
  | some v =>
    have hbyte := (Memory.load_word_iff m big p v).mp hload k hk
    rw [h] at hbyte
    cases hbyte

/-- What a fetch reads, in a configuration that may run (20_memory.md R82). -/
theorem fetchReads_of_wf {s : State} (h : s.cfg.wf = true) (p : Word) : s.FetchReads p (s.fetch p) := by
  rw [fetch_of_wf h]
  constructor
  · intro haligned hregion v
    rw [if_pos ⟨haligned, hregion⟩]
    exact Memory.load_word_iff ..
  · rintro (hodd | hmap | ⟨k, hk, habsent⟩)
    · exact if_neg fun hcond => hodd hcond.1
    · exact if_neg fun hcond => hcond.2 hmap
    · rw [load_word_none hk habsent, ite_self]

/-! ### Operand finalisation and the filling of EX -/

/-- The IMM half-word an instruction takes at finalisation (40_engine.md R142). -/
def State.prefixFor (s : State) (d : Inst) : Option (BitVec 16) :=
  if d.kind.consumesImmediate then (if s.immPend then some (s.uimm.extractLsb' 16 16) else none) else d.upper

/-- A finalised instruction is the one it was, with its IMM half-word; nothing is pending behind it, and IMMPEND is all that changes. -/
theorem finalise_result {s u : State} {d r : Inst} (h : s.finalise d = .next (r, u)) :
    r = { d with upper := s.prefixFor d } ∧ u = { s with immPend := false } := by
  have hclear (hnone : s.immPend = false) : s = { s with immPend := false } := by rw [← hnone]
  rcases finalise_next h with ⟨htakes, hpend, rfl, rfl⟩ | ⟨htakes, hpend, rfl, rfl⟩ | ⟨htakes, hpend, rfl, rfl⟩
  · simp [State.prefixFor, htakes, hpend]
  · exact ⟨by simp [State.prefixFor, htakes, hpend], hclear hpend⟩
  · exact ⟨by simp [State.prefixFor, htakes], hclear hpend⟩

/-- EX is filled with the finalised instruction of DE, or stays empty (40_engine.md R138, R142). -/
theorem fillEx_result {s t : State} (h : s.fillEx = .next t) :
    t = { s with ex := s.de.map (fun d => { d with upper := s.prefixFor d }), immPend := s.immPend && s.de.isNone } := by
  rcases fillEx_next h with ⟨hde, rfl⟩ | ⟨d, r, u, hde, hfinal, rfl⟩
  · simp [hde]
  · obtain ⟨rfl, rfl⟩ := finalise_result hfinal
    simp [hde]

/-! ### The step of the execute slot -/

/-- An instruction's effect that answers NORMAL leaves PC (42_branch.md R183). -/
theorem ExecLeaves.pc_of_normal {i : Instr} {s t : State} (h : ExecLeaves i s t) (hnormal : t.status = .normal) :
    t.pc = s.pc := by
  cases h with
  | access store rD ea t accesses leaves => cases leaves <;> rfl
  | taken | links => cases hnormal
  | writes | unknownSelector | notTaken | prefixes | clears => rfl

/-- Only IMM sets IMMPEND, and no instruction's effect clears it (41_arith_imm.md R171). -/
theorem ExecLeaves.immPend {i : Instr} {s t : State} (h : ExecLeaves i s t) :
    t.immPend = s.immPend ∨ ∃ imm16, i = .imm imm16 := by
  cases h with
  | access store rD ea t accesses leaves => cases leaves <;> exact .inl rfl
  | prefixes imm16 isImm => exact .inr ⟨imm16, isImm⟩
  | writes | unknownSelector | notTaken | taken | links | clears => exact .inl rfl

/-- The step of the execute slot that answers NORMAL leaves PC. -/
theorem stepEx_pc_of_normal {s t : State} (h : s.stepEx = .next t) (hnormal : t.status = .normal) : t.pc = s.pc := by
  rcases stepEx_leaves h with ⟨inst, i, -, -, hleaves⟩ | ⟨st, rfl⟩ | ⟨inst, -, -, rfl⟩
  · exact hleaves.pc_of_normal hnormal
  · rfl
  · rfl

/-- Without an IMM in the slot its step leaves IMMPEND. -/
theorem stepEx_immPend {s t : State} (h : s.stepEx = .next t)
    (hno : ∀ inst imm16, s.ex = some inst → inst.kind ≠ .instr (.imm imm16)) : t.immPend = s.immPend := by
  rcases stepEx_leaves h with ⟨inst, i, hinst, hkind, hleaves⟩ | ⟨st, rfl⟩ | ⟨inst, -, -, rfl⟩
  · rcases hleaves.immPend with hsame | ⟨imm16, rfl⟩
    · exact hsame
    · exact absurd hkind (hno inst imm16 hinst)
  · rfl
  · rfl

/-! ### The controller -/

/-- What the step of the execute slot left is what the cycle leaves: the controller writes the slots, PC, IMMPEND, RETIRED and the
delay-slot bit (10_state.md R41). -/
theorem effectKept_of_settle {u v : State} (h : u.settle = .next v) : EffectKept u v.endCycle := by
  have hmark := settle_delaySlot h
  have hmsr : v.msr = (delaySlotAfter u.cfg u.ex u.dsArmed u.status u.msr).1 := congrArg Prod.fst hmark
  have hmasked : v.msr &&& ~~~u.cfg.msrDs = u.msr &&& ~~~u.cfg.msrDs := by
    rw [hmsr]
    exact delaySlotAfter_and (mask_and_not_mask _) ..
  have hnever (hclear : u.cfg.dsClear = .never) : v.msr = u.msr := by rw [hmsr, delaySlotAfter_never hclear]
  obtain ⟨_, _, _, _, _, _, _, _, rfl⟩ := settle_keeps h
  exact ⟨rfl, ⟨rfl, rfl, rfl, rfl⟩, rfl, rfl, rfl, rfl, rfl, rfl, rfl, hmasked, hnever⟩

/-- On NORMAL the slots behind EX move on from where they stood before the retirement (40_engine.md R138). -/
theorem settle_of_normal {u v : State} (h : u.settle = .next v) (hnormal : u.status = .normal) :
    v.immPend = (u.immPend && u.de.isNone) ∧ v.ex = u.de.map (fun d => { d with upper := u.prefixFor d }) ∧
    v.de = u.fe.map (decodeSlot u.cfg) ∧ v.fe = some (u.fetchSlot u.pc) ∧
    v.pc = u.pc + BitVec.ofNat 32 (instrBytes u.cfg) := by
  rcases settle_next h with ⟨-, hadvance⟩ | ⟨hjump, -⟩ | ⟨hno, -⟩
  · obtain ⟨w, hfill, rfl⟩ := advance_next hadvance
    obtain ⟨m, armed, n, hretire⟩ := retire_spec u
    rw [hretire] at hfill
    rw [fillEx_result hfill]
    exact ⟨rfl, rfl, rfl, rfl, rfl⟩
  · rw [hnormal] at hjump; cases hjump
  · exact absurd hnormal hno

/-- Settles O42: the step of the execute slot leaves the slots behind EX and, on NORMAL, PC; the controller moves them on. -/
theorem normalAdvancesThePipeline : Obligations.NormalAdvancesThePipeline := by
  intro s t hrst haccept hstep hnormal
  obtain ⟨hwf, -⟩ := step_next hstep
  rcases cycle_next hrst hstep with ⟨hyes, -⟩ | ⟨-, u, v, hex, hsettle, rfl⟩
  · simp [haccept] at hyes
  · have hunormal : u.status = .normal := (settle_status hsettle).symm.trans hnormal
    have hpc := stepEx_pc_of_normal hex hunormal
    have hkept := effectKept_of_settle hsettle
    obtain ⟨himm, hvex, hvde, hvfe, hvpc⟩ := settle_of_normal hsettle hunormal
    have ⟨_, _, _, hmem, _, _, _, hvcfg, _⟩ := hkept
    obtain ⟨hcfg, hfe, hde⟩ : u.cfg = s.cfg ∧ u.fe = s.fe ∧ u.de = s.de := by
      obtain ⟨_, _, _, _, _, _, _, _, _, _, _, _, _, _, rfl⟩ := stepEx_keeps hex
      exact ⟨rfl, rfl, rfl⟩
    rw [hde] at himm hvex
    rw [hfe, hcfg] at hvde
    rw [hpc] at hvfe hvpc
    have hfetch := State.fetch_congr hvcfg hmem s.pc
    refine ⟨u, hex, hkept, himm, fun hpend hno => (stepEx_immPend hex hno).trans hpend, hvde, ?_, ?_, ?_, fun hempty => ?_,
      fun d hd => ?_⟩
    · rw [hfetch]; exact hvfe
    · exact fetchReads_of_wf (by rw [hvcfg, hcfg]; exact hwf) s.pc
    · rw [hcfg, instrBytes_of_wf hwf] at hvpc
      exact hvpc
    · rw [hempty] at hvex
      exact hvex
    · rw [hd] at hvex
      exact ⟨_, hvex, rfl, rfl, rfl, rfl, rfl, rfl, rfl⟩

end Sys2Proof.Machine
end

section
/-! SUPPORT. What a bus call answers, case by case (20_memory.md R62, R63, R67): O29 and O30. -/

namespace Sys2Proof.Machine

/-! ### The three answers of a call -/

/-- The alignment check in terms of the address (20_memory.md R63). -/
theorem misaligned_iff {n : Width} {a : Word} : misaligned n a = true ↔ a.toNat % n.bytes ≠ 0 := by
  simp [misaligned]

/-- An address the width divides passes the alignment check. -/
theorem not_misaligned {n : Width} {a : Word} (h : a.toNat % n.bytes = 0) : misaligned n a = false := by
  simp [misaligned, h]

/-- A misaligned call changes nothing (20_memory.md R63). -/
theorem bus_of_misaligned {n : Width} {a : Word} (h : misaligned n a = true) (s : State) (k : BusKind) (d : Word) :
    s.bus k n a d = .next (.unaligned, s) := by
  simp [State.bus, h]

/-- A call that counts leaves its request pending (20_memory.md R67). -/
theorem bus_of_counting {s : State} {k : BusKind} {n : Width} {a d : Word} (haligned : misaligned n a = false)
    (hcount : 0 < s.busCount k n a d) :
    s.bus k n a d = .next (if regionOf s.cfg a = .map then .mapped else .access,
      { s with pend := some ⟨k, n, a, d, s.busCount k n a d⟩ }) := by
  simp [State.bus, haligned, hcount]

/-- The completing call of a read (20_memory.md R67, R68). -/
theorem bus_read_of_done {s : State} {n : Width} {a d : Word} (haligned : misaligned n a = false)
    (hcount : s.busCount .read n a d = 0) :
    s.bus .read n a d = andThen ({ s with pend := none }.memRead n a) (fun r => .next (.ready r.1, r.2)) := by
  simp [State.bus, haligned, hcount]

/-- The completing call of a write (20_memory.md R67, R69). -/
theorem bus_write_of_done {s : State} {n : Width} {a d : Word} (haligned : misaligned n a = false)
    (hcount : s.busCount .write n a d = 0) :
    s.bus .write n a d = andThen ({ s with pend := none }.memWrite n a d) (fun t => .next (.ready 0, t)) := by
  simp [State.bus, haligned, hcount]

/-- Settles O29: the first branch of a bus call, and no other branch answers UNALIGNED. -/
theorem busRefusesMisaligned : Obligations.BusRefusesMisaligned := by
  intro s k n a d
  refine ⟨fun h => bus_of_misaligned (misaligned_iff.mpr h) s k d, fun t h => ?_⟩
  rcases bus_next h with ⟨hmis, -, -⟩ | ⟨-, -, hwaits, -⟩ | ⟨-, -, -, v, hready, -⟩ | ⟨-, -, -, hready, -⟩
  · exact misaligned_iff.mp hmis
  · split at hwaits <;> cases hwaits
  · cases hready
  · cases hready

/-! ### The counter over the calls of one access -/

/-- The first call of an access seeds the counter with its latency (20_memory.md R66, R67). -/
theorem busCount_first {s : State} (h : s.pend = none) (k : BusKind) (n : Width) (a d : Word) :
    s.busCount k n a d = accessLatency s.cfg k a - 1 := by
  simp [State.busCount, h]

/-- An identical re-issue counts down (20_memory.md R67). -/
theorem busCount_again (s : State) (k : BusKind) (n : Width) (a d : Word) (left : Nat) :
    ({ s with pend := some ⟨k, n, a, d, left⟩ } : State).busCount k n a d = left - 1 := by
  simp [State.busCount, Pending.same]

/-- The state the bus has reached when `j` calls of an access have been made and `left` cycles of its latency remain. -/
def State.afterCalls (s : State) (k : BusKind) (n : Width) (a d : Word) (j left : Nat) : State :=
  if j = 0 then s else { s with pend := some ⟨k, n, a, d, left⟩ }

/-- The calls of an access that came before differ from no call in the pending record alone. -/
theorem afterCalls_withPend (s : State) (k : BusKind) (n : Width) (a d : Word) (j left : Nat) (p : Option Pending) :
    { s.afterCalls k n a d j left with pend := p } = { s with pend := p } := by
  unfold State.afterCalls
  split <;> rfl

@[simp] theorem afterCalls_cfg (s : State) (k : BusKind) (n : Width) (a d : Word) (j left : Nat) :
    (s.afterCalls k n a d j left).cfg = s.cfg := by
  unfold State.afterCalls
  split <;> rfl

/-- Each call of an access leaves one cycle less of its latency, the first as well as every re-issue. -/
theorem busCount_afterCalls {s : State} (h : s.pend = none) (k : BusKind) (n : Width) (a d : Word) (j : Nat) :
    (s.afterCalls k n a d j (accessLatency s.cfg k a - j)).busCount k n a d = accessLatency s.cfg k a - j - 1 := by
  unfold State.afterCalls
  split
  · subst j
    exact busCount_first h k n a d
  · exact busCount_again s k n a d _

/-- Settles O30: the counter at the call in question is what remains of the latency, less one. -/
theorem busCompletesOnLastCall : Obligations.BusCompletesOnLastCall := by
  intro s k n a d j hpend haligned _ left at'
  have haligned : misaligned n a = false := not_misaligned haligned
  have hat : at' = s.afterCalls k n a d j left := rfl
  have hcount : at'.busCount k n a d = left - 1 := busCount_afterCalls hpend k n a d j
  have hfresh : { at' with pend := none } = s := by
    rw [hat, afterCalls_withPend, ← hpend]
  refine ⟨fun hmore => ?_, fun hlast hread => ?_, fun hlast hwrite => ?_⟩
  · rw [bus_of_counting haligned (by omega), hcount, hat, afterCalls_withPend, afterCalls_cfg]
  · subst hread
    rw [bus_read_of_done haligned (by omega), hfresh]
  · subst hwrite
    rw [bus_write_of_done haligned (by omega), hfresh]

end Sys2Proof.Machine
end

section
/-! SUPPORT. The half-word access as one bus call (43_load_store.md R190), what it does while the bus counts and where the model stops
(20_memory.md R72, R73): O20 and O22. -/

namespace Sys2Proof.Machine

/-! ### The access as a bus call -/

/-- The bus request of a half-word store or load (20_memory.md R62). -/
def accessKind (store : Bool) : BusKind := if store then .write else .read

/-- The datum of the request: 0 for a load (10_state.md R34). -/
def State.accessDatum (s : State) (store : Bool) (rD : RegIdx) : Word := if store then s.storeDatum rD else 0

/-- A half-word access is one bus call and what the answer asks for, in either direction and addressing mode. -/
theorem exec_access {store : Bool} {i : Instr} {s : State} {rD : RegIdx} {ea : Word} (h : AccessOf store i s rD ea) :
    exec i s = andThen (s.bus (accessKind store) .half ea (s.accessDatum store rD))
      (fun r => .next (r.2.afterWait ea rD store r.1)) := by
  cases store <;> obtain ⟨rA, rB, rfl, rfl⟩ | ⟨rA, imm16, rfl, rfl⟩ := h <;> rfl

/-- The counter of the access is that of its bus call. -/
theorem accessCount_iff {store : Bool} {s : State} {rD : RegIdx} {ea : Word} {n : Nat} :
    AccessCount store s rD ea n ↔ s.busCount (accessKind store) .half ea (s.accessDatum store rD) = n := by
  cases store <;> rfl

/-! ### While the bus counts -/

/-- The state a counting access leaves: the request pending, and in the mapped fallback EAR at the address (60_exceptions.md R227). -/
def State.waiting (s : State) (ea : Word) (p : Pending) : State :=
  if regionOf s.cfg ea = .map then { s with pend := some p, ear := ea, status := .memMapped }
  else { s with pend := some p, status := .memAccess }

/-- A counting access answers MEM_ACCESS or MEM_MAPPED (43_load_store.md R190). -/
theorem exec_access_of_counting {store : Bool} {i : Instr} {s : State} {rD : RegIdx} {ea : Word} {n : Nat}
    (haccess : AccessOf store i s rD ea) (hcount : AccessCount store s rD ea n) (hpos : 0 < n) (heven : ea.toNat % 2 = 0) :
    exec i s = .next (s.waiting ea ⟨accessKind store, .half, ea, s.accessDatum store rD, n⟩) := by
  have hcount := accessCount_iff.mp hcount
  rw [exec_access haccess, bus_of_counting (misaligned_half.mpr heven) (by omega), hcount, State.waiting]
  split <;> rfl

/-- A counting access leaves everything alone but the pending record, the status and EAR. -/
theorem waiting_keeps (s : State) (ea : Word) (p : Pending) :
    ∃ e st, s.waiting ea p = { s with pend := some p, ear := e, status := st } := by
  unfold State.waiting
  split
  · exact ⟨_, _, rfl⟩
  · exact ⟨s.ear, _, rfl⟩

/-- The status of a counting access, and EAR, by the region of the address (60_exceptions.md R227). -/
theorem waiting_answer (s : State) (ea : Word) (p : Pending) :
    if regionOf s.cfg ea = .map then (s.waiting ea p).status = .memMapped ∧ (s.waiting ea p).ear = ea
    else (s.waiting ea p).status = .memAccess ∧ (s.waiting ea p).ear = s.ear := by
  split <;> rename_i hregion <;> simp [State.waiting, hregion]

/-- EAR, ESR, the image, the pending access, the devices, RX_SOURCE and the status are all that `SameButAccess []` leaves open. -/
theorem sameButAccess_update (s : State) (e x : Word) (m : Memory) (p : Option Pending) (ds : List DeviceState) (bs : List Byte)
    (j : Nat) (st : Status) :
    SameButAccess [] s { s with ear := e, esr := x, mem := m, pend := p, devices := ds, rxBytes := bs, rxPulled := j,
                                status := st } :=
  ⟨fun r _ => State.reg_congr rfl rfl r, rfl, rfl, rfl, rfl, ⟨rfl, rfl⟩, ⟨rfl, rfl, rfl, rfl, rfl⟩,
    ⟨rfl, rfl, rfl, rfl, rfl, rfl⟩⟩

/-- The frame of a counting access (43_load_store.md R190). -/
theorem waiting_frame (s : State) (ea : Word) (p : Pending) :
    SameButAccess [] s (s.waiting ea p) ∧ SameMemory s (s.waiting ea p) ∧ (s.waiting ea p).esr = s.esr ∧
      (s.waiting ea p).devices = s.devices ∧ (s.waiting ea p).rxBytes = s.rxBytes ∧
      (s.waiting ea p).rxPulled = s.rxPulled ∧ (s.waiting ea p).pend = some p := by
  obtain ⟨e, st, hkeeps⟩ := waiting_keeps s ea p
  rw [hkeeps]
  exact ⟨sameButAccess_update s e s.esr s.mem (some p) s.devices s.rxBytes s.rxPulled st, fun _ => rfl, rfl, rfl, rfl, rfl, rfl⟩

/-- Settles O20: the bus call counts, so the request is left pending and the answer is that of the region. -/
theorem accessWaitsWithoutEffect : Obligations.AccessWaitsWithoutEffect := by
  intro store i s rD ea n haccess hcount hpos heven
  have hexec := exec_access_of_counting haccess hcount hpos heven
  obtain ⟨hsame, hmem, hesr, hdevices, hbytes, hpulled, hpend⟩ := waiting_frame s ea _
  exact ⟨_, hexec, hsame, hmem, hesr, hdevices, hbytes, hpulled, hpend, waiting_answer s ea _⟩

/-! ### The two faults -/

/-- Bytes that are not all there join to none. -/
theorem Memory.join_of_absent {m : Memory} {xs : List Nat} {x : Nat} (hmem : x ∈ xs) (habsent : m.read x = none) (acc : Word) :
    m.join xs acc = none := by
  induction xs generalizing acc with
  | nil => cases hmem
  | cons y ys ih =>
    rw [Memory.join]
    rcases List.mem_cons.mp hmem with rfl | hmem
    · rw [habsent]
    · split
      · exact ih hmem _
      · rfl

/-- A load over an absent byte answers none (20_memory.md R73). -/
theorem Memory.load_of_absent {m : Memory} {n : Width} {a : Word} {x : Nat} (hlow : a.toNat ≤ x) (hhigh : x < a.toNat + n.bytes)
    (habsent : m.read x = none) (big : Bool) : m.load big n a = none :=
  Memory.join_of_absent (mem_laneAddrs.mpr ⟨hlow, hhigh⟩) habsent 0

/-- A completing read or write in the mapped fallback with no register stops with the fault of that name (20_memory.md R72). -/
theorem bus_of_unmapped {s : State} {k : BusKind} {n : Width} {a d : Word} (haligned : misaligned n a = false)
    (hcount : s.busCount k n a d = 0) (htarget : targetOf s.cfg a = .unmapped) :
    s.bus k n a d = .fault (.unmappedAccess a) := by
  cases k with
  | read => rw [bus_read_of_done haligned hcount, State.memRead, htarget]; rfl
  | write => rw [bus_write_of_done haligned hcount, State.memWrite, htarget]; rfl

/-- A completing read of the image over an absent byte stops with the fault of that name (20_memory.md R73). -/
theorem bus_read_of_absent {s : State} {n : Width} {a d : Word} (haligned : misaligned n a = false)
    (hcount : s.busCount .read n a d = 0) (htarget : targetOf s.cfg a = .image)
    (habsent : s.mem.load s.cfg.bigEndian n a = none) : s.bus .read n a d = .fault (.uninitialisedRead a) := by
  rw [bus_read_of_done haligned hcount, State.memRead, htarget]
  simp only [habsent, andThen_of_fault]

/-- Settles O22: the completing bus call faults, and the access passes the fault on. -/
theorem accessFaultsByName : Obligations.AccessFaultsByName := by
  intro store i s rD ea haccess hcount heven
  have haligned := misaligned_half.mpr heven
  have hcount := accessCount_iff.mp hcount
  rw [exec_access haccess]
  refine ⟨fun htarget => ?_, fun htarget hload habsent => ?_⟩
  · rw [bus_of_unmapped haligned hcount htarget, andThen_of_fault]
  · subst hload
    have hnone : s.mem.load s.cfg.bigEndian .half ea = none := by
      rcases habsent with hfirst | hsecond
      · exact Memory.load_of_absent (Nat.le_refl _) (by simp [Width.bytes]) hfirst _
      · exact Memory.load_of_absent (Nat.le_succ _) (by simp [Width.bytes]) hsecond _
    have hfault : s.bus (accessKind false) .half ea (s.accessDatum false rD) = .fault (.uninitialisedRead ea) :=
      bus_read_of_absent haligned hcount htarget hnone
    rw [hfault, andThen_of_fault]

end Sys2Proof.Machine
end

section
/-! SUPPORT. The bytes of a datum in the image (20_memory.md R61): a store puts them there, a load joins them, whatever the width and
the byte order: O32 and O33. -/

namespace Sys2Proof.Machine

/-! ### The low bits of a datum -/

/-- The low `k` bits of a word, as an unsigned number. -/
def lowBits (k : Nat) (d : Word) : Word := (d.setWidth k).setWidth 32

/-- Bit `i` of the low `k` bits. -/
theorem getLsbD_lowBits (k : Nat) (d : Word) (i : Nat) : (lowBits k d).getLsbD i = (decide (i < k) && d.getLsbD i) := by
  rw [lowBits, BitVec.getLsbD_setWidth, BitVec.getLsbD_setWidth]
  by_cases hi : i < 32
  · simp [hi]
  · simp [hi, BitVec.getLsbD_of_ge d i (by omega)]

@[simp] theorem lowBits_zero (d : Word) : lowBits 0 d = 0 :=
  BitVec.eq_of_getLsbD_eq fun i _ => by simp [getLsbD_lowBits]

/-- The mask of a width keeps the bits of its bytes. -/
theorem and_mask (n : Width) (d : Word) : d &&& n.mask = lowBits (8 * n.bytes) d := by
  refine BitVec.eq_of_getLsbD_eq fun i hi => ?_
  rw [BitVec.getLsbD_and, getLsbD_lowBits]
  cases n <;> simp only [Width.mask, Width.bytes] <;> interval_cases i <;> simp

/-! ### The bytes of a datum at a list of addresses -/

/-- The image holds the low bytes of `d` at the addresses, the most significant first. -/
def Memory.Holds (m : Memory) : List Nat → Word → Prop
  | [], _ => True
  | x :: xs, d => m.read x = some ((d >>> (8 * xs.length)).setWidth 8) ∧ m.Holds xs d

/-- Spreading a datum over different addresses puts its bytes there (20_memory.md R69). -/
theorem Memory.holds_spread {xs : List Nat} (hdistinct : xs.Nodup) (m : Memory) (d : Word) : (m.spread xs d).Holds xs d := by
  induction xs generalizing m with
  | nil => trivial
  | cons x xs ih =>
    obtain ⟨hfresh, hrest⟩ := List.nodup_cons.mp hdistinct
    refine ⟨?_, ih hrest _⟩
    rw [Memory.spread, Memory.read_spread_of_not_mem _ _ _ hfresh, Memory.read_write_self]

/-- One more byte below what has been joined so far. -/
theorem joined_byte (acc d : Word) (k : Nat) :
    ((acc <<< 8 ||| ((d >>> k).setWidth 8).setWidth 32) <<< k) ||| lowBits k d = (acc <<< (k + 8)) ||| lowBits (k + 8) d := by
  refine BitVec.eq_of_getLsbD_eq fun i hi => ?_
  simp only [BitVec.getLsbD_or, BitVec.getLsbD_shiftLeft, BitVec.getLsbD_setWidth, BitVec.getLsbD_ushiftRight, getLsbD_lowBits, hi,
    decide_true, Bool.true_and]
  by_cases hlow : i < k
  · simp [hlow, show i < k + 8 by omega]
  · by_cases hbyte : i < k + 8
    · simp [hlow, hbyte, show i - k < 8 by omega, show i - k < 32 by omega, show k + (i - k) = i by omega]
    · simp [hlow, hbyte, show ¬ i - k < 8 by omega, show i - k < 32 by omega, show i - k - 8 = i - (k + 8) by omega]

/-- Joining the bytes of a datum gives its low bits, below what has been joined before (20_memory.md R68). -/
theorem Memory.join_of_holds {m : Memory} {xs : List Nat} {d : Word} (h : m.Holds xs d) (acc : Word) :
    m.join xs acc = some (acc <<< (8 * xs.length) ||| lowBits (8 * xs.length) d) := by
  induction xs generalizing acc with
  | nil => simp [Memory.join]
  | cons x xs ih =>
    obtain ⟨hbyte, hrest⟩ := h
    rw [Memory.join, hbyte]
    simp only
    rw [ih hrest, joined_byte, List.length_cons, Nat.mul_succ]

/-! ### The lanes of an access -/

/-- An access has as many addresses as bytes. -/
theorem laneAddrs_length (big : Bool) (n : Width) (a : Nat) : (laneAddrs big n a).length = n.bytes := by
  cases n <;> cases big <;> rfl

/-- An access addresses no byte twice. -/
theorem laneAddrs_nodup (big : Bool) (n : Width) (a : Nat) : (laneAddrs big n a).Nodup := by
  cases n <;> cases big <;> simp [laneAddrs]

/-- The distance from an access's address to the byte that lies `j` bytes above its least significant one (20_memory.md R61). -/
def byteOffset (big : Bool) (n : Width) (j : Nat) : Nat := if big then n.bytes - 1 - j else j

/-- The bytes of a datum at the addresses of an access, counted from the least significant one. -/
theorem Memory.holds_laneAddrs {m : Memory} {big : Bool} {n : Width} {a : Nat} {d : Word}
    (h : ∀ j < n.bytes, m.read (a + byteOffset big n j) = some ((d >>> (8 * j)).setWidth 8)) : m.Holds (laneAddrs big n a) d := by
  cases n with
  | byte => exact ⟨by simpa [byteOffset, Width.bytes] using h 0 (by decide), trivial⟩
  | half =>
    have h0 := h 0 (by decide)
    have h1 := h 1 (by decide)
    cases big <;> exact ⟨h1, h0, trivial⟩
  | word =>
    have h0 := h 0 (by decide)
    have h1 := h 1 (by decide)
    have h2 := h 2 (by decide)
    have h3 := h 3 (by decide)
    cases big <;> exact ⟨h3, h2, h1, h0, trivial⟩

/-- A load whose bytes are those of a datum gives the datum's bits of that width (20_memory.md R68). -/
theorem Memory.load_of_holds {m : Memory} {big : Bool} {n : Width} {a d : Word} (h : m.Holds (laneAddrs big n a.toNat) d) :
    m.load big n a = some (d &&& n.mask) := by
  rw [Memory.load, Memory.join_of_holds h, laneAddrs_length, and_mask]
  simp

/-! ### A load after a store -/

/-- A join reads the bytes at its addresses alone. -/
theorem Memory.join_congr {m m' : Memory} {xs : List Nat} (h : ∀ x ∈ xs, m.read x = m'.read x) (acc : Word) :
    m.join xs acc = m'.join xs acc := by
  induction xs generalizing acc with
  | nil => rfl
  | cons x xs ih =>
    obtain ⟨hhead, hrest⟩ := List.forall_mem_cons.mp h
    rw [Memory.join, Memory.join, hhead]
    split
    · exact ih hrest _
    · rfl

/-- Settles O32: the load joins the bytes the store has spread; bytes outside the store read as before. -/
theorem imageLoadAfterStore : Obligations.ImageLoadAfterStore := by
  intro m big n a d
  refine ⟨Memory.load_of_holds (Memory.holds_spread (laneAddrs_nodup big n a.toNat) m d), fun n' b hdisjoint => ?_⟩
  refine Memory.join_congr (fun x hx => Memory.read_store_outside m big n a d ?_) 0
  have hlane := mem_laneAddrs.mp hx
  omega

/-! ### The lanes of a word -/

/-- An aligned access lies inside one word (20_memory.md R63). -/
theorem aligned_fits {n : Width} {b : Nat} (h : b % n.bytes = 0) : b % 4 + n.bytes ≤ 4 := by
  cases n <;> simp only [Width.bytes] at * <;> omega

/-- The bytes of an access lie inside it. -/
theorem byteOffset_lt {big : Bool} {n : Width} {j : Nat} (h : j < n.bytes) : byteOffset big n j < n.bytes := by
  unfold byteOffset
  split <;> omega

/-- A byte of a word, counted from the word's address, is the byte of the addressed lane counted from the lane's least significant
one (20_memory.md R61). -/
theorem wordByte_of_lane {big : Bool} {n : Width} {b : Word} (haligned : b.toNat % n.bytes = 0) {j : Nat} (hj : j < n.bytes)
    (v : Word) :
    wordByte big (b.toNat % 4 + byteOffset big n j) v = ((v >>> laneShift big n b) >>> (8 * j)).setWidth 8 := by
  have hfits := aligned_fits haligned
  have hplace : (8 * if big then 3 - (b.toNat % 4 + byteOffset big n j) else b.toNat % 4 + byteOffset big n j) =
      laneShift big n b + 8 * j := by
    cases big <;> simp only [laneShift, byteOffset, Bool.false_eq_true, if_true, if_false] <;> omega
  rw [wordByte, hplace, ← BitVec.shiftRight_add]
  rfl

/-- Settles O33: each byte of the access is a byte of the word, at the lane's place. -/
theorem imageLanesOfAWord : Obligations.ImageLanesOfAWord := by
  intro m big a b v n hword hload haligned hlow hhigh
  have hbytes := (Memory.load_word_iff m big a v).mp hload
  have hfits := aligned_fits haligned
  refine Memory.load_of_holds (Memory.holds_laneAddrs fun j hj => ?_)
  have hoffset : byteOffset big n j < n.bytes := byteOffset_lt hj
  have hplace : b.toNat + byteOffset big n j = a.toNat + (b.toNat % 4 + byteOffset big n j) := by omega
  rw [← wordByte_of_lane haligned hj, hplace]
  exact hbytes _ (by omega)

end Sys2Proof.Machine
end

section
/-! SUPPORT. The wiring contract and the load contract check by check (20_memory.md R83, R84; 70_reset_and_hazards.md R306, R307):
O55. -/

namespace Sys2Proof.Machine

/-! ### The checks of a configuration -/

/-- ILEN is checked against the length of an instruction (30_encoding.md R100, log entry 28). -/
theorem lengthOk_iff {c : Config} : c.lengthOk = true ↔ c.ilen = 32 := by
  simp [Config.lengthOk]

/-- A pair of latencies is checked against 1 (00_scope.md R7). -/
theorem latency_wf_iff {l : Latency} : l.wf = true ↔ 1 ≤ l.rd ∧ 1 ≤ l.wr := by
  simp [Latency.wf]

/-- The latency check covers the three regions, the devices and both instruction tables (00_scope.md R7, 20_memory.md R84). -/
theorem latenciesOk_iff {c : Config} :
    c.latenciesOk = true ↔
      (∀ l ∈ [c.lmbLat, c.opbLat, c.mapLat] ++ c.devices.map DeviceCfg.lat, 1 ≤ l.rd ∧ 1 ≤ l.wr) ∧
      ∀ e ∈ c.lat ++ c.clat, 1 ≤ e.2 := by
  simp only [Config.latenciesOk, Bool.and_eq_true, List.all_eq_true, decide_eq_true_eq, latency_wf_iff, List.mem_append,
    List.mem_cons, List.mem_map, List.not_mem_nil, or_false]
  constructor
  · rintro ⟨⟨⟨⟨⟨hlmb, hopb⟩, hmap⟩, hdevices⟩, hlat⟩, hclat⟩
    refine ⟨?_, fun e he => he.elim (hlat e) (hclat e)⟩
    rintro l ((rfl | rfl | rfl) | ⟨d, hd, rfl⟩)
    · exact hlmb
    · exact hopb
    · exact hmap
    · exact hdevices d hd
  · rintro ⟨hpairs, htables⟩
    exact ⟨⟨⟨⟨⟨hpairs _ (.inl (.inl rfl)), hpairs _ (.inl (.inr (.inl rfl)))⟩, hpairs _ (.inl (.inr (.inr rfl)))⟩,
      fun d hd => hpairs _ (.inr ⟨d, hd, rfl⟩)⟩, fun e he => htables e (.inl he)⟩, fun e he => htables e (.inr he)⟩

/-- A single bit is 1 shifted by its place in the word. -/
theorem isSingleBit_iff_shift {w : Word} : isSingleBit w = true ↔ ∃ k : Fin 32, w = 1#32 <<< k.val := by
  simp [isSingleBit, Fin.exists_iff]

/-- Two single bits are the same exactly when their places are. -/
theorem shift_one_inj {i j : Fin 32} : 1#32 <<< i.val = 1#32 <<< j.val ↔ i = j := by
  refine ⟨fun h => ?_, fun h => h ▸ rfl⟩
  have hbit := congrArg (BitVec.getLsbD · i.val) (show BitVec.twoPow 32 i.val = BitVec.twoPow 32 j.val from h)
  exact Fin.ext (by simpa [BitVec.getLsbD_twoPow, eq_comm] using hbit)

/-- The mask check asks for three single bits at three different places (10_state.md R23). -/
theorem masksOk_iff {c : Config} :
    c.masksOk = true ↔
      ∃ i j k : Fin 32, i ≠ j ∧ i ≠ k ∧ j ≠ k ∧ c.msrIe = 1#32 <<< i.val ∧ c.msrC = 1#32 <<< j.val ∧ c.msrDs = 1#32 <<< k.val := by
  simp only [Config.masksOk, Bool.and_eq_true, decide_eq_true_eq, isSingleBit_iff_shift]
  constructor
  · rintro ⟨⟨⟨⟨⟨⟨i, hi⟩, j, hj⟩, k, hk⟩, hij⟩, hik⟩, hjk⟩
    rw [hi, hj, Ne, shift_one_inj] at hij
    rw [hi, hk, Ne, shift_one_inj] at hik
    rw [hj, hk, Ne, shift_one_inj] at hjk
    exact ⟨i, j, k, hij, hik, hjk, hi, hj, hk⟩
  · rintro ⟨i, j, k, hij, hik, hjk, hi, hj, hk⟩
    rw [hi, hj, hk]
    exact ⟨⟨⟨⟨⟨⟨i, rfl⟩, j, rfl⟩, k, rfl⟩, mt shift_one_inj.mp hij⟩, mt shift_one_inj.mp hik⟩, mt shift_one_inj.mp hjk⟩

/-- The bounds check covers both regions (20_memory.md R84). -/
theorem boundsOk_iff {c : Config} :
    c.boundsOk = true ↔ ∀ b ∈ c.lmb :: c.opb.toList, b.base.toNat % 4 = 0 ∧ b.last.toNat % 4 = 3 := by
  rw [Config.boundsOk, Bool.and_eq_true, List.forall_mem_cons, bounds_wf_iff]
  cases c.opb <;> simp [bounds_wf_iff]

/-- No variant declares a register twice. -/
theorem declared_nodup (v : Variant) : v.declared.Nodup := by
  cases v <;> decide

/-- As long as the declared list, with each declared name once: a rearrangement of the declared list (70_reset_and_hazards.md
R307). -/
theorem registersDeclared_iff {d : DeviceCfg} :
    d.registersDeclared = true ↔ (d.regs.map Prod.fst).Perm d.variant.declared := by
  have hnodup := declared_nodup d.variant
  simp only [DeviceCfg.registersDeclared, Bool.and_eq_true, List.all_eq_true, decide_eq_true_eq]
  constructor
  · rintro ⟨hlength, honce⟩
    have hsubset : d.variant.declared ⊆ d.regs.map Prod.fst := fun r hr => List.count_pos_iff.mp (by rw [honce r hr]; decide)
    exact ((hnodup.subperm hsubset).perm_of_length_le (by rw [List.length_map, hlength])).symm
  · intro hperm
    refine ⟨by rw [← hperm.length_eq, List.length_map], fun r hr => ?_⟩
    rw [hperm.count_eq, List.count_eq_one_of_mem hnodup hr]

/-- The address check (20_memory.md R84). -/
theorem addressesOk_iff {c : Config} :
    c.addressesOk = true ↔
      (∀ a ∈ c.registerAddrs, a.toNat % 4 = 0 ∧ ¬ (c.lmb.base.toNat ≤ a.toNat ∧ a.toNat ≤ c.lmb.last.toNat)) ∧
      c.registerAddrs.Nodup := by
  simp only [Config.addressesOk, Bool.and_eq_true, List.all_eq_true, decide_eq_true_eq, Bool.not_eq_true', ← contains_iff,
    Bool.not_eq_true, addrsDistinct_iff]

/-- The wiring contract, spelled out (20_memory.md R84). -/
theorem wf_iff {c : Config} :
    c.wf = true ↔
      c.ilen = 32 ∧
      (∀ l ∈ [c.lmbLat, c.opbLat, c.mapLat] ++ c.devices.map DeviceCfg.lat, 1 ≤ l.rd ∧ 1 ≤ l.wr) ∧
      (∀ e ∈ c.lat ++ c.clat, 1 ≤ e.2) ∧
      (∃ i j k : Fin 32, i ≠ j ∧ i ≠ k ∧ j ≠ k ∧
        c.msrIe = 1#32 <<< i.val ∧ c.msrC = 1#32 <<< j.val ∧ c.msrDs = 1#32 <<< k.val) ∧
      (∀ b ∈ c.lmb :: c.opb.toList, b.base.toNat % 4 = 0 ∧ b.last.toNat % 4 = 3) ∧
      (∀ d ∈ c.devices, (d.regs.map Prod.fst).Perm d.variant.declared) ∧
      (∀ a ∈ c.registerAddrs, a.toNat % 4 = 0 ∧ ¬ (c.lmb.base.toNat ≤ a.toNat ∧ a.toNat ≤ c.lmb.last.toNat)) ∧
      c.registerAddrs.Nodup := by
  simp only [Config.wf, Bool.and_eq_true, List.all_eq_true, lengthOk_iff, latenciesOk_iff, masksOk_iff, boundsOk_iff,
    registersDeclared_iff, addressesOk_iff, and_assoc]

/-! ### The load contract -/

/-- An address of the 32-bit space is loadable exactly when one of the configured regions holds it (20_memory.md R83). -/
theorem loadable_ofNat_iff {c : Config} {n : Nat} (h : n < 2 ^ 32) :
    c.loadable (BitVec.ofNat 32 n) = true ↔ ∃ b ∈ c.lmb :: c.opb.toList, b.base.toNat ≤ n ∧ n ≤ b.last.toNat := by
  have hn : (BitVec.ofNat 32 n).toNat = n := by rw [BitVec.toNat_ofNat, Nat.mod_eq_of_lt h]
  simp only [loadable_iff, contains_iff, hn, List.mem_cons, Option.mem_toList, exists_eq_or_imp]

/-- The load contract, spelled out (20_memory.md R83). -/
theorem launchOk_iff {c : Config} {image : Memory} {exitNeeded : Bool} :
    c.launchOk image exitNeeded = true ↔
      (∀ e ∈ image, e.1 < 2 ^ 32 ∧ ∃ b ∈ c.lmb :: c.opb.toList, b.base.toNat ≤ e.1 ∧ e.1 ≤ b.last.toNat) ∧
      (exitNeeded = true → c.exitAddr.isSome = true) := by
  have hcell (e : Host.Cell) : (e.1 < 2 ^ 32 ∧ c.loadable (BitVec.ofNat 32 e.1) = true) ↔
      e.1 < 2 ^ 32 ∧ ∃ b ∈ c.lmb :: c.opb.toList, b.base.toNat ≤ e.1 ∧ e.1 ≤ b.last.toNat :=
    and_congr_right loadable_ofNat_iff
  have hexit : (!exitNeeded || c.exitAddr.isSome) = true ↔ (exitNeeded = true → c.exitAddr.isSome = true) := by
    cases exitNeeded <;> simp
  simp only [Config.launchOk, Bool.and_eq_true, List.all_eq_true, decide_eq_true_eq, hcell, hexit]

/-! ### The launch -/

/-- A launch of a well-formed configuration starts at power-on exactly under the load contract (70_reset_and_hazards.md R306). -/
theorem launch_of_wf {c : Config} (h : c.wf = true) (image : Memory) (exitNeeded : Bool) :
    launch c image exitNeeded =
      if image.wf && c.launchOk image exitNeeded then .next (State.powerOn c image) else .refused .illFormedLaunch := by
  simp [launch, h]

/-- Settles O55: the checks of the configuration and of the image, spelled out, and the two places that ask for them. -/
theorem illFormedLaunchRefused : Obligations.IllFormedLaunchRefused := by
  intro c image exitNeeded loadable
  have hloadable : (image.wf && c.launchOk image exitNeeded) = true ↔ loadable := by
    rw [Bool.and_eq_true, launchOk_iff]
  refine ⟨wf_iff, one_le_latencies_of_wf, fun hwf hload => ?_, fun hwf hload => ?_, fun hwf => ⟨?_, fun s hs => ?_⟩⟩
  · rw [launch_of_wf hwf, if_pos (hloadable.mpr hload)]
  · rw [launch_of_wf hwf, if_neg (mt hloadable.mp hload)]
  · simp [launch, hwf]
  · simp [step, hs, hwf]

end Sys2Proof.Machine
end

section
/-! SUPPORT. What each name's row of the opcode map asks of a word's fields, and what the decoder makes of a word that has them
(30_encoding.md R100 to R106): O1. -/

namespace Sys2Proof.Laws

/-! ### A word under a mask, field by field -/

/-- The mask of a field: all of it where an encoding fixes the field, none of it where it does not. -/
def fixedMask {n : Nat} (f : Option (BitVec n)) : BitVec n := f.elim 0 fun _ => BitVec.allOnes n

/-- The bits of a field under that mask. -/
def fixedBits {n : Nat} (f : Option (BitVec n)) : BitVec n := f.getD 0

@[simp] theorem fixedMask_none {n : Nat} : fixedMask (none : Option (BitVec n)) = 0 := rfl
@[simp] theorem fixedMask_some {n : Nat} (v : BitVec n) : fixedMask (some v) = BitVec.allOnes n := rfl
@[simp] theorem fixedBits_none {n : Nat} : fixedBits (none : Option (BitVec n)) = 0 := rfl
@[simp] theorem fixedBits_some {n : Nat} (v : BitVec n) : fixedBits (some v) = v := rfl

/-- A masked field has the fixed bits exactly when the field has its fixed value, if there is one. -/
theorem and_fixedMask_iff {n : Nat} (f : Option (BitVec n)) (x : BitVec n) :
    x &&& fixedMask f = fixedBits f ↔ ∀ v ∈ f, x = v := by
  cases f <;> simp

/-- Two joined fields agree exactly when both do. -/
theorem append_inj_iff {m n : Nat} {x x' : BitVec m} {y y' : BitVec n} : x ++ y = x' ++ y' ↔ x = x' ∧ y = y' := by
  constructor
  · intro h
    have hhigh := congrArg (BitVec.extractLsb' n m) h
    have hlow := congrArg (BitVec.extractLsb' 0 n) h
    simp only [BitVec.extractLsb'_append_eq_left, BitVec.extractLsb'_append_eq_right] at hhigh hlow
    exact ⟨hhigh, hlow⟩
  · rintro ⟨rfl, rfl⟩
    rfl

/-- One more field below fields whose condition is known. -/
theorem append_fixed_iff {m n : Nat} {x mask bits : BitVec m} {P : Prop} (h : x &&& mask = bits ↔ P) {y : BitVec n}
    (f : Option (BitVec n)) :
    (x ++ y) &&& (mask ++ fixedMask f) = bits ++ fixedBits f ↔ P ∧ ∀ v ∈ f, y = v := by
  rw [BitVec.and_append, append_inj_iff, h, and_fixedMask_iff]

/-- The fixed fields of a format-B word. -/
theorem formatB_fixed_iff (w : Word) (op : Option (BitVec 6)) (d a : Option (BitVec 5)) (imm : Option (BitVec 16)) :
    w &&& (fixedMask op ++ fixedMask d ++ fixedMask a ++ fixedMask imm) =
        fixedBits op ++ fixedBits d ++ fixedBits a ++ fixedBits imm ↔
      (((∀ v ∈ op, fieldOp w = v) ∧ ∀ v ∈ d, fieldRd w = v) ∧ ∀ v ∈ a, fieldRa w = v) ∧ ∀ v ∈ imm, fieldImm16 w = v := by
  conv_lhs => rw [← formatB_of_fields w]
  exact append_fixed_iff (append_fixed_iff (append_fixed_iff (and_fixedMask_iff op _) d) a) imm

/-- The fixed fields of a format-A word. -/
theorem formatA_fixed_iff (w : Word) (op : Option (BitVec 6)) (d a b : Option (BitVec 5)) (func : Option (BitVec 11)) :
    w &&& (fixedMask op ++ fixedMask d ++ fixedMask a ++ fixedMask b ++ fixedMask func) =
        fixedBits op ++ fixedBits d ++ fixedBits a ++ fixedBits b ++ fixedBits func ↔
      ((((∀ v ∈ op, fieldOp w = v) ∧ ∀ v ∈ d, fieldRd w = v) ∧ ∀ v ∈ a, fieldRa w = v) ∧ ∀ v ∈ b, fieldRb w = v) ∧
        ∀ v ∈ func, fieldFunc w = v := by
  conv_lhs => rw [← formatA_of_fields w]
  exact append_fixed_iff (append_fixed_iff (append_fixed_iff (append_fixed_iff (and_fixedMask_iff op _) d) a) b) func

/-- The fixed fields of a format-S word. -/
theorem formatS_fixed_iff (w : Word) (op : Option (BitVec 6)) (d a : Option (BitVec 5)) (k : Option (BitVec 2))
    (sel : Option (BitVec 14)) :
    w &&& (fixedMask op ++ fixedMask d ++ fixedMask a ++ fixedMask k ++ fixedMask sel) =
        fixedBits op ++ fixedBits d ++ fixedBits a ++ fixedBits k ++ fixedBits sel ↔
      ((((∀ v ∈ op, fieldOp w = v) ∧ ∀ v ∈ d, fieldRd w = v) ∧ ∀ v ∈ a, fieldRa w = v) ∧ ∀ v ∈ k, fieldKind w = v) ∧
        ∀ v ∈ sel, fieldSel w = v := by
  conv_lhs => rw [← formatS_of_fields w]
  exact append_fixed_iff (append_fixed_iff (append_fixed_iff (append_fixed_iff (and_fixedMask_iff op _) d) a) k) sel

/-- The fixed fields of a format-M word. -/
theorem formatM_fixed_iff (w : Word) (op : Option (BitVec 6)) (d a : Option (BitVec 5)) (k : Option (BitVec 1))
    (imm : Option (BitVec 15)) :
    w &&& (fixedMask op ++ fixedMask d ++ fixedMask a ++ fixedMask k ++ fixedMask imm) =
        fixedBits op ++ fixedBits d ++ fixedBits a ++ fixedBits k ++ fixedBits imm ↔
      ((((∀ v ∈ op, fieldOp w = v) ∧ ∀ v ∈ d, fieldRd w = v) ∧ ∀ v ∈ a, fieldRa w = v) ∧ ∀ v ∈ k, fieldBit15 w = v) ∧
        ∀ v ∈ imm, fieldImm15 w = v := by
  conv_lhs => rw [← formatM_of_fields w]
  exact append_fixed_iff (append_fixed_iff (append_fixed_iff (append_fixed_iff (and_fixedMask_iff op _) d) a) k) imm

/-! ### The rows of the opcode map -/

/-- The word has the fields the encoding fixes for the name (30_encoding.md R101, R104). -/
def HasFixedFields (w : Word) : Mnemonic → Prop
  | .addik => fieldOp w = 0b001100#6
  | .imm => fieldOp w = 0b101100#6 ∧ fieldRd w = 0b00000#5 ∧ fieldRa w = 0b00000#5
  | .beqi => fieldOp w = 0b101111#6 ∧ fieldRd w = 0b00000#5
  | .blt => fieldOp w = 0b100111#6 ∧ fieldRd w = 0b00010#5 ∧ fieldFunc w = 0b00000000000#11
  | .bralid => fieldOp w = 0b101110#6 ∧ fieldRa w = 0b11100#5
  | .lhu => fieldOp w = 0b110001#6 ∧ fieldFunc w = 0b00000000000#11
  | .lhui => fieldOp w = 0b111001#6
  | .sh => fieldOp w = 0b110101#6 ∧ fieldFunc w = 0b00000000000#11
  | .shi => fieldOp w = 0b111101#6
  | .mfs => fieldOp w = 0b100101#6 ∧ fieldRa w = 0b00000#5 ∧ fieldKind w = 0b10#2
  | .msrclr => fieldOp w = 0b100101#6 ∧ fieldRa w = 0b10001#5 ∧ fieldBit15 w = 0b0#1
  | .pcmpbf => fieldOp w = 0b100000#6 ∧ fieldFunc w = 0b10000000000#11
  | .pcmpeq => fieldOp w = 0b100010#6 ∧ fieldFunc w = 0b10000000000#11
  | .sext8 => fieldOp w = 0b100100#6 ∧ fieldImm16 w = 0x0060#16

/-- The instruction of the name with the operand fields of the word. -/
def instrOfFields (w : Word) : Mnemonic → Instr
  | .addik => .addik (fieldRd w) (fieldRa w) (fieldImm16 w)
  | .imm => .imm (fieldImm16 w)
  | .beqi => .beqi (fieldRa w) (fieldImm16 w)
  | .blt => .blt (fieldRa w) (fieldRb w)
  | .bralid => .bralid (fieldRd w) (fieldImm16 w)
  | .lhu => .lhu (fieldRd w) (fieldRa w) (fieldRb w)
  | .lhui => .lhui (fieldRd w) (fieldRa w) (fieldImm16 w)
  | .sh => .sh (fieldRd w) (fieldRa w) (fieldRb w)
  | .shi => .shi (fieldRd w) (fieldRa w) (fieldImm16 w)
  | .mfs => .mfs (fieldRd w) (fieldSel w)
  | .msrclr => .msrclr (fieldRd w) (fieldImm15 w)
  | .pcmpbf => .pcmpbf (fieldRd w) (fieldRa w) (fieldRb w)
  | .pcmpeq => .pcmpeq (fieldRd w) (fieldRa w) (fieldRb w)
  | .sext8 => .sext8 (fieldRd w) (fieldRa w)

/-- A row of the opcode map matches a word exactly when the word has the fields fixed for the row's name (30_encoding.md R104). -/
theorem row_matches_iff {r : OpcodeRow} (hr : r ∈ opcodeMap) (w : Word) :
    r.matches w = true ↔ HasFixedFields w r.mnemonic := by
  have hB := formatB_fixed_iff w
  have hA := formatA_fixed_iff w
  simp only [opcodeMap, List.mem_cons, List.not_mem_nil, or_false] at hr
  rcases hr with rfl | rfl | rfl | rfl | rfl | rfl | rfl | rfl | rfl | rfl | rfl | rfl | rfl | rfl <;>
    simp only [OpcodeRow.matches, decide_eq_true_eq, HasFixedFields]
  · simpa using hB (some 0b001100#6) none none none
  · simpa [and_assoc] using hB (some 0b101100#6) (some 0b00000#5) (some 0b00000#5) none
  · simpa using hB (some 0b101111#6) (some 0b00000#5) none none
  · simpa [and_assoc] using hA (some 0b100111#6) (some 0b00010#5) none none (some 0)
  · simpa using hB (some 0b101110#6) none (some 0b11100#5) none
  · simpa using hA (some 0b110001#6) none none none (some 0)
  · simpa using hB (some 0b111001#6) none none none
  · simpa using hA (some 0b110101#6) none none none (some 0)
  · simpa using hB (some 0b111101#6) none none none
  · simpa [and_assoc] using formatS_fixed_iff w (some 0b100101#6) none (some 0b00000#5) (some 0b10#2) none
  · simpa [and_assoc] using formatM_fixed_iff w (some 0b100101#6) none (some 0b10001#5) (some 0b0#1) none
  · simpa using hA (some 0b100000#6) none none none (some 0b10000000000#11)
  · simpa using hA (some 0b100010#6) none none none (some 0b10000000000#11)
  · simpa using hB (some 0b100100#6) none none (some 0x0060#16)

/-- Every name has a row in the opcode map (30_encoding.md R104). -/
theorem exists_row (m : Mnemonic) : ∃ r ∈ opcodeMap, r.mnemonic = m := by
  cases m <;> decide

/-! ### The decoder -/

/-- A word with the fields fixed for a name decodes to the instruction of that name with the word's operands. -/
theorem decodeWord_of_fixedFields {w : Word} {m : Mnemonic} (h : HasFixedFields w m) :
    decodeWord w = .ok (instrOfFields w m) := by
  cases m <;> simp only [HasFixedFields] at h <;> simp [decodeWord, decodeFunc, decodeSpecial, instrOfFields, h]

/-- A word that decodes has the fields fixed for some name, and decodes to that name's instruction. -/
theorem fixedFields_of_decodeWord {w : Word} {i : Instr} (h : decodeWord w = .ok i) :
    ∃ m, HasFixedFields w m ∧ i = instrOfFields w m := by
  simp only [decodeWord, decodeFunc, decodeSpecial, ite_eq_iff, Except.ok.injEq, reduceCtorEq, and_false, or_false] at h
  rcases h with ⟨hop, rfl⟩ |
    ⟨-, ⟨hop, hrest, rfl⟩ |
    ⟨-, ⟨hop, hrest, rfl⟩ |
    ⟨-, ⟨hop, hd, hfunc, rfl⟩ |
    ⟨-, ⟨hop, hrest, rfl⟩ |
    ⟨-, ⟨hop, hrest, rfl⟩ |
    ⟨-, ⟨hop, rfl⟩ |
    ⟨-, ⟨hop, hrest, rfl⟩ |
    ⟨-, ⟨hop, rfl⟩ |
    ⟨-, ⟨hop, ⟨hrest, rfl⟩ | ⟨-, hrest, rfl⟩⟩ |
    ⟨-, ⟨hop, hrest, rfl⟩ |
    ⟨-, ⟨hop, hrest, rfl⟩ |
    ⟨-, hop, hrest, rfl⟩⟩⟩⟩⟩⟩⟩⟩⟩⟩⟩⟩
  · exact ⟨.addik, hop, rfl⟩
  · exact ⟨.imm, ⟨hop, hrest⟩, rfl⟩
  · exact ⟨.beqi, ⟨hop, hrest⟩, rfl⟩
  · exact ⟨.blt, ⟨hop, hd, hfunc⟩, rfl⟩
  · exact ⟨.bralid, ⟨hop, hrest⟩, rfl⟩
  · exact ⟨.lhu, ⟨hop, hrest⟩, rfl⟩
  · exact ⟨.lhui, hop, rfl⟩
  · exact ⟨.sh, ⟨hop, hrest⟩, rfl⟩
  · exact ⟨.shi, hop, rfl⟩
  · exact ⟨.mfs, ⟨hop, hrest⟩, rfl⟩
  · exact ⟨.msrclr, ⟨hop, hrest⟩, rfl⟩
  · exact ⟨.pcmpbf, ⟨hop, hrest⟩, rfl⟩
  · exact ⟨.pcmpeq, ⟨hop, hrest⟩, rfl⟩
  · exact ⟨.sext8, ⟨hop, hrest⟩, rfl⟩

/-- The decoder rejects a word exactly when it matches no row of the opcode map (30_encoding.md R104, R106). -/
theorem decodeWord_rejects_iff {w : Word} : (∃ e, decodeWord w = .error e) ↔ ∀ r ∈ opcodeMap, r.matches w = false := by
  constructor
  · rintro ⟨e, herror⟩ r hr
    by_contra hmatch
    have hfields := (row_matches_iff hr w).mp (Bool.eq_true_of_not_eq_false hmatch)
    rw [decodeWord_of_fixedFields hfields] at herror
    cases herror
  · intro hnone
    cases hdecode : decodeWord w with
    | error e => exact ⟨e, rfl⟩
    | ok i =>
      obtain ⟨m, hfields, -⟩ := fixedFields_of_decodeWord hdecode
      obtain ⟨r, hr, rfl⟩ := exists_row m
      have hmatch := (row_matches_iff hr w).mpr hfields
      rw [hnone r hr] at hmatch
      cases hmatch

/-! ### The word of an instruction -/

/-- The word of an instruction matches the row of its name (30_encoding.md R104). -/
theorem encodingRow : ∀ i : Instr, EncodingRow.Statement i
  | .addik .. => EncodingRow.addik ..
  | .imm .. => EncodingRow.imm ..
  | .beqi .. => EncodingRow.beqi ..
  | .blt .. => EncodingRow.blt ..
  | .bralid .. => EncodingRow.bralid ..
  | .lhu .. => EncodingRow.lhu ..
  | .lhui .. => EncodingRow.lhui ..
  | .sh .. => EncodingRow.sh ..
  | .shi .. => EncodingRow.shi ..
  | .mfs .. => EncodingRow.mfs ..
  | .msrclr .. => EncodingRow.msrclr ..
  | .pcmpbf .. => EncodingRow.pcmpbf ..
  | .pcmpeq .. => EncodingRow.pcmpeq ..
  | .sext8 .. => EncodingRow.sext8 ..

/-- The word of an instruction has the fields fixed for its name, because it matches the name's row. -/
theorem encode_fixedFields (i : Instr) : HasFixedFields (encode i) i.mnemonic := by
  obtain ⟨r, hr, hname, hmatch⟩ := encodingRow i
  exact hname ▸ (row_matches_iff hr _).mp hmatch

/-- The operands are the fields the encoding puts them in, format by format (30_encoding.md R101, R102). -/
theorem instrOfFields_encode (i : Instr) : instrOfFields (encode i) i.mnemonic = i := by
  cases i with
  | addik | imm | beqi | bralid | lhui | shi | sext8 => simp only [encode, Instr.mnemonic, instrOfFields, formatB_fields]
  | blt | lhu | sh | pcmpbf | pcmpeq => simp only [encode, Instr.mnemonic, instrOfFields, formatA_fields]
  | mfs => simp only [encode, Instr.mnemonic, instrOfFields, formatS_fields]
  | msrclr => simp only [encode, Instr.mnemonic, instrOfFields, formatM_fields]

/-- Decoding undoes encoding. -/
theorem decodeWord_encode (i : Instr) : decodeWord (encode i) = .ok i := by
  rw [decodeWord_of_fixedFields (encode_fixedFields i), instrOfFields_encode]

/-- The bytes of a word at the head of a byte string decode as the word, with the rest behind them (30_encoding.md R100). -/
theorem decodeBytes_bytesOfWord (w : Word) (rest : List Byte) :
    decodeBytes (bytesOfWord w ++ rest) = (decodeWord w).map (·, rest) := by
  simp only [bytesOfWord, List.cons_append, List.nil_append, decodeBytes, wordOfBytes_bytes]
  cases decodeWord w <;> rfl

/-- Settles O1: the word of an instruction has the fields of its name, and its operands are read back from them. -/
theorem decodeEncodeAgree : Obligations.DecodeEncodeAgree := by
  intro i
  refine ⟨decodeWord_encode i, fun rest => ?_⟩
  rw [decodeBytes_bytesOfWord, decodeWord_encode]
  rfl

end Sys2Proof.Laws
end

section
/-! SUPPORT. The assembled immediate as a number (30_encoding.md R103): O10. -/

namespace Sys2Proof.Machine

/-- The assembled immediate is that of the IMM half-word the instruction in EX was finalised with (40_engine.md R142). -/
theorem imm32_of_ex {s : State} {inst : Inst} (h : s.ex = some inst) (imm16 : BitVec 16) :
    s.imm32 imm16 = assembleImmediate inst.upper imm16 := by
  simp [State.imm32, State.exUpper, h]

/-- Two half-words joined, as a number. -/
theorem toNat_joined_halves (u l : Half) : (u ++ l : Word).toNat = u.toNat * 65536 + l.toNat := by
  calc (u ++ l : Word).toNat = u.toNat <<< 16 ||| l.toNat := BitVec.toNat_append u l
    _ = u.toNat <<< 16 + l.toNat := (Nat.shiftLeft_add_eq_or_of_lt l.isLt u.toNat).symm
    _ = u.toNat * 65536 + l.toNat := by rw [Nat.shiftLeft_eq]

/-- Settles O10: the two forms of the immediate, by the IMM half-word the instruction in EX took. -/
theorem immediateIsAssembled : Obligations.ImmediateIsAssembled := by
  intro s inst imm16 hex
  rw [imm32_of_ex hex]
  refine ⟨fun u hu => ?_, fun hnone => ?_⟩
  · rw [hu]
    exact toNat_joined_halves u imm16
  · rw [hnone]
    exact BitVec.toInt_signExtend_of_le (by decide)

end Sys2Proof.Machine
end

section
/-! SUPPORT. What decode makes of a fetched word, and the step of an execute slot that holds no instruction (30_encoding.md R105,
R106; 40_engine.md R133 to R136): O46. -/

namespace Sys2Proof.Machine

/-! ### What a fetched word is -/

/-- A word that decodes is its instruction (30_encoding.md R105). -/
theorem kindOf_of_ok {w : Word} {i : Instr} (h : decodeWord w = .ok i) : kindOf (some w) = .instr i := by
  simp [kindOf, h]

/-- A word that is rejected is the ILLEGAL variant, whatever the reason (30_encoding.md R106). -/
theorem kindOf_of_error {w : Word} {e : Reject} (h : decodeWord w = .error e) : kindOf (some w) = .illegal w := by
  simp [kindOf, h]

/-- A word is ILLEGAL exactly when it matches no row of the opcode map (30_encoding.md R104, R106). -/
theorem kindOf_illegal_iff (w : Word) : kindOf (some w) = .illegal w ↔ ∀ r ∈ opcodeMap, r.matches w = false := by
  cases hdecode : decodeWord w with
  | error e =>
    exact iff_of_true (kindOf_of_error hdecode) (Laws.decodeWord_rejects_iff.mp ⟨e, hdecode⟩)
  | ok i =>
    refine iff_of_false (by simp [kindOf_of_ok hdecode]) fun hnone => ?_
    obtain ⟨e, herror⟩ := Laws.decodeWord_rejects_iff.mpr hnone
    rw [hdecode] at herror
    cases herror

/-! ### The step of a slot without an instruction -/

/-- The step of an empty slot (40_engine.md R133). -/
theorem stepEx_of_empty {s : State} (h : s.ex = none) : s.stepEx = .next (s.withStatus .normal) := by
  simp [State.stepEx, h]

/-- The step at the exit address (40_engine.md R136). -/
theorem stepEx_of_exit {s : State} {inst : Inst} (h : s.ex = some inst) (hexit : s.cfg.exitAddr = some inst.ipc) :
    s.stepEx = .next (s.withStatus .stop) := by
  simp [State.stepEx, h, hexit]

/-- The step of a slot that holds UNFETCHABLE (40_engine.md R135). -/
theorem stepEx_of_unfetchable {s : State} {inst : Inst} (h : s.ex = some inst) (hexit : s.cfg.exitAddr ≠ some inst.ipc)
    (hkind : inst.kind = .unfetchable) : s.stepEx = .fault (.noInstruction inst.ipc) := by
  simp [State.stepEx, h, hexit, hkind]

/-- The step of a slot that holds ILLEGAL (40_engine.md R134). -/
theorem stepEx_of_illegal {s : State} {inst : Inst} {w : Word} (h : s.ex = some inst)
    (hexit : s.cfg.exitAddr ≠ some inst.ipc) (hkind : inst.kind = .illegal w) : s.stepEx = .next (s.withStatus .illegal) := by
  simp [State.stepEx, h, hexit, hkind]

/-- Settles O46: the kind decode gives a word, then the branches of the step ahead of the instruction's. -/
theorem slotWithoutEffect : Obligations.SlotWithoutEffect := by
  have hnone (c : Config) (f : FetchSlot) (h : f.word = none) : (decodeSlot c f).kind = .unfetchable := congrArg kindOf h
  have hsome (c : Config) (f : FetchSlot) (w : Word) (h : f.word = some w) :
      (decodeSlot c f).kind = .illegal w ↔ ∀ r ∈ opcodeMap, r.matches w = false := by
    rw [← kindOf_illegal_iff, ← h]
    rfl
  refine ⟨fun c f => ⟨hnone c f, hsome c f⟩, fun s => ⟨stepEx_of_empty, fun inst hex => ⟨stepEx_of_exit hex, fun hexit =>
    ⟨stepEx_of_unfetchable hex hexit, fun w => stepEx_of_illegal hex hexit, fun f hkind => ⟨fun hf => ?_, fun w hf hrows => ?_⟩⟩⟩⟩⟩
  · exact stepEx_of_unfetchable hex hexit (hkind.trans (hnone s.cfg f hf))
  · exact stepEx_of_illegal hex hexit (hkind.trans ((hsome s.cfg f w hf).mpr hrows))

end Sys2Proof.Machine
end

section
/-! SUPPORT. What decode builds of a fetched word, the latency tables, and the filling of empty slots (30_encoding.md R105, R110;
40_engine.md R133, R138, R150): O6. -/

namespace Sys2Proof.Machine

/-! ### The latency tables -/

/-- A name the table does not list has latency 1 (30_encoding.md R110). -/
theorem latencyOf_of_absent {m : Mnemonic} {table : List (Mnemonic × Nat)} (h : ∀ e ∈ table, e.1 ≠ m) :
    latencyOf m table = 1 := by
  induction table with
  | nil => rfl
  | cons e rest ih =>
    obtain ⟨hhead, hrest⟩ := List.forall_mem_cons.mp h
    rw [latencyOf, if_neg hhead]
    exact ih hrest

/-- A name the table lists, with one number only, has that number (00_scope.md R7). -/
theorem latencyOf_of_listed {m : Mnemonic} {n : Nat} {table : List (Mnemonic × Nat)} (hmem : (m, n) ∈ table)
    (honly : ∀ e ∈ table, e.1 = m → e.2 = n) : latencyOf m table = n := by
  induction table with
  | nil => cases hmem
  | cons e rest ih =>
    obtain ⟨hhead, hrest⟩ := List.forall_mem_cons.mp honly
    rw [latencyOf]
    split
    next hname => exact hhead hname
    next hother =>
      rcases List.mem_cons.mp hmem with rfl | hmem
      · exact absurd rfl hother
      · exact ih hmem hrest

/-! ### Decode -/

/-- BEQI and BLT, and no other instruction, have a conditional latency (30_encoding.md R105, R110). -/
theorem instr_clat (c : Config) (i : Instr) :
    (InstKind.instr i).clat c =
      if i.mnemonic = .beqi ∨ i.mnemonic = .blt then some (latencyOf i.mnemonic c.clat) else none := by
  cases i <;> rfl

/-- What decode builds (30_encoding.md R105). -/
theorem decodedFrom_decodeSlot (c : Config) (f : FetchSlot) : DecodedFrom c f (decodeSlot c f) := by
  refine ⟨rfl, rfl, rfl, fun hnone => congrArg kindOf hnone, fun w hw => ⟨fun e herror => ?_, fun i hok => ?_⟩⟩
  · exact (congrArg kindOf hw).trans (kindOf_of_error herror)
  · have hkind : kindOf f.word = .instr i := (congrArg kindOf hw).trans (kindOf_of_ok hok)
    have hlat : (kindOf f.word).lat c = latencyOf i.mnemonic c.lat := by rw [hkind]; rfl
    have hclat := instr_clat c i
    rw [← hkind] at hclat
    exact ⟨hkind, hlat, hlat, hclat⟩

/-! ### A cycle with an empty execute slot -/

/-- With MSR[IE] clear no interrupt is accepted (60_exceptions.md R230). -/
theorem acceptsInterrupt_of_disabled {s : State} (h : s.msr &&& s.cfg.msrIe = 0) : s.acceptsInterrupt = false := by
  simp [State.acceptsInterrupt, State.interruptsEnabled, h]

/-- What a cycle with an empty execute slot leaves: each slot filled from the one behind it, FE from the fetch at PC. -/
def State.slotsMoved (s : State) : State := ({ s with status := .normal, ex := s.de } : State).shiftFetch.endCycle

@[simp] theorem State.slotsMoved_ex (s : State) : s.slotsMoved.ex = s.de := rfl
@[simp] theorem State.slotsMoved_de (s : State) : s.slotsMoved.de = s.fe.map (decodeSlot s.cfg) := rfl
@[simp] theorem State.slotsMoved_fe (s : State) : s.slotsMoved.fe = some (s.fetchSlot s.pc) := rfl
@[simp] theorem State.slotsMoved_fetchSlot (s : State) (p : Word) : s.slotsMoved.fetchSlot p = s.fetchSlot p := rfl
@[simp] theorem State.slotsMoved_cfg (s : State) : s.slotsMoved.cfg = s.cfg := rfl
@[simp] theorem State.slotsMoved_gpr (s : State) : s.slotsMoved.gpr = s.gpr := rfl
@[simp] theorem State.slotsMoved_msr (s : State) : s.slotsMoved.msr = s.msr := rfl
@[simp] theorem State.slotsMoved_ear (s : State) : s.slotsMoved.ear = s.ear := rfl
@[simp] theorem State.slotsMoved_esr (s : State) : s.slotsMoved.esr = s.esr := rfl
@[simp] theorem State.slotsMoved_fsr (s : State) : s.slotsMoved.fsr = s.fsr := rfl
@[simp] theorem State.slotsMoved_btr (s : State) : s.slotsMoved.btr = s.btr := rfl
@[simp] theorem State.slotsMoved_uimm (s : State) : s.slotsMoved.uimm = s.uimm := rfl
@[simp] theorem State.slotsMoved_immPend (s : State) : s.slotsMoved.immPend = s.immPend := rfl
@[simp] theorem State.slotsMoved_retired (s : State) : s.slotsMoved.retired = s.retired := rfl
@[simp] theorem State.slotsMoved_mem (s : State) : s.slotsMoved.mem = s.mem := rfl
@[simp] theorem State.slotsMoved_pend (s : State) : s.slotsMoved.pend = s.pend := rfl
@[simp] theorem State.slotsMoved_dsArmed (s : State) : s.slotsMoved.dsArmed = s.dsArmed := rfl
@[simp] theorem State.slotsMoved_rxBytes (s : State) : s.slotsMoved.rxBytes = s.rxBytes := rfl
@[simp] theorem State.slotsMoved_rxPulled (s : State) : s.slotsMoved.rxPulled = s.rxPulled := rfl
@[simp] theorem State.slotsMoved_status (s : State) : s.slotsMoved.status = .normal := rfl
@[simp] theorem State.slotsMoved_cycle (s : State) : s.slotsMoved.cycle = s.cycle + 1 := rfl
@[simp] theorem State.slotsMoved_devices (s : State) : s.slotsMoved.devices = s.devices.map (DeviceState.tick s.cfg) := rfl

/-- In a configuration that may run, PC moves on by 4 (40_engine.md R138). -/
theorem State.slotsMoved_pc_of_wf {s : State} (h : s.cfg.wf = true) : s.slotsMoved.pc = s.pc + 4 :=
  shiftFetch_pc_of_wf (s := { s with status := .normal, ex := s.de }) h

/-- With no IMM pending, EX takes over the instruction of DE as it is (40_engine.md R138, R142). -/
theorem fillEx_of_unprefixed {s : State} (himm : s.immPend = false) (hde : ∀ d, s.de = some d → d.upper = none) :
    s.fillEx = .next { s with ex := s.de } := by
  cases hslot : s.de with
  | none => simp [State.fillEx, hslot]
  | some d =>
    have hd : { d with upper := none } = d := by rw [← hde d hslot]
    have hfinal : s.finalise d = .next (d, s) := by
      unfold State.finalise
      split <;> simp [himm, hd]
    simp [State.fillEx, hslot, hfinal]

/-- A cycle with an empty execute slot is NORMAL, retires nothing and moves the slots on (40_engine.md R133, R138). -/
theorem step_of_empty {s : State} (hsteps : s.steps) (hex : s.ex = none) (himm : s.immPend = false)
    (hde : ∀ d, s.de = some d → d.upper = none) : step s = .next s.slotsMoved := by
  obtain ⟨hwf, hrst, haccept⟩ := hsteps
  have hretire : (s.withStatus .normal).retire = s.withStatus .normal := by simp [State.retire, hex]
  have hsettle : (s.withStatus .normal).settle =
      .next ({ s.withStatus .normal with ex := (s.withStatus .normal).de } : State).shiftFetch := by
    show andThen (s.withStatus .normal).retire.fillEx _ = _
    rw [hretire, fillEx_of_unprefixed (s := s.withStatus .normal) himm hde]
    rfl
  have htick : s.cpuTick = .next ({ s with status := .normal, ex := s.de } : State).shiftFetch := by
    rw [State.cpuTick, haccept, stepEx_of_empty hex]
    exact hsettle
  simp [step, hwf, hrst, State.systemCycle, htick, State.slotsMoved]

/-- A run goes on behind a cycle with a soft status (70_reset_and_hazards.md R320). -/
theorem runCycles_succ {n : Nat} {s t : State} (h : step s = .next t) (hsoft : t.status.terminal = false) :
    runCycles (n + 1) s = runCycles n t := by
  simp [runCycles, runUntil, h, hsoft]

/-- From empty slots three cycles bring the word at PC into the execute slot (40_engine.md R150). -/
theorem runCycles_three_of_empty {s : State} (hwf : s.cfg.wf = true) (hrst : s.rst = false) (hie : s.msr &&& s.cfg.msrIe = 0)
    (hex : s.ex = none) (hde : s.de = none) (hfe : s.fe = none) (himm : s.immPend = false) :
    runCycles 3 s = .next s.slotsMoved.slotsMoved.slotsMoved := by
  have hsteps : s.steps := ⟨hwf, hrst, acceptsInterrupt_of_disabled hie⟩
  have hsteps₁ : s.slotsMoved.steps := ⟨hwf, hrst, acceptsInterrupt_of_disabled hie⟩
  have hsteps₂ : s.slotsMoved.slotsMoved.steps := ⟨hwf, hrst, acceptsInterrupt_of_disabled hie⟩
  have hfirst := step_of_empty hsteps hex himm (by simp [hde])
  have hsecond := step_of_empty hsteps₁ (by simp [hde]) himm (by simp [hfe])
  have hthird := step_of_empty hsteps₂ (by simp [hfe]) himm (by rintro d ⟨⟩; rfl)
  rw [runCycles_succ hfirst rfl, runCycles_succ hsecond rfl, runCycles_succ hthird rfl]
  rfl

/-- Settles O6: what a fetch reads, what decode builds, the latency tables, and the three cycles that fill the slots. -/
theorem fetchedWordReachesExecute : Obligations.FetchedWordReachesExecute := by
  refine ⟨fun s p hwf => fetchReads_of_wf hwf p, decodedFrom_decodeSlot,
    fun m l => ⟨latencyOf_of_absent, fun n => latencyOf_of_listed⟩, fun s hwf hrst hie hex hde hfe himm => ?_⟩
  have hpc₁ : s.slotsMoved.pc = s.pc + 4 := State.slotsMoved_pc_of_wf hwf
  have hpc₂ : s.slotsMoved.slotsMoved.pc = s.pc + 8 := by
    rw [State.slotsMoved_pc_of_wf (s := s.slotsMoved) hwf, hpc₁]
    exact BitVec.add_assoc ..
  have hpc₃ : s.slotsMoved.slotsMoved.slotsMoved.pc = s.pc + 12 := by
    rw [State.slotsMoved_pc_of_wf (s := s.slotsMoved.slotsMoved) hwf, hpc₂]
    exact BitVec.add_assoc ..
  refine ⟨s.slotsMoved.slotsMoved.slotsMoved, decodeSlot s.cfg (s.fetchSlot s.pc), decodeSlot s.cfg (s.fetchSlot (s.pc + 4)),
    runCycles_three_of_empty hwf hrst hie hex hde hfe himm, rfl, ?ex, decodedFrom_decodeSlot .., ?de, decodedFrom_decodeSlot ..,
    ?fe, hpc₃, rfl, ?frame⟩
  case ex => simp
  case de => simp [hpc₁]
  case fe =>
    rw [State.slotsMoved_fe, hpc₂, State.slotsMoved_fetchSlot, State.slotsMoved_fetchSlot]
    rfl
  case frame => simp [SameExceptionRegs, SamePrefixState]

end Sys2Proof.Machine
end

section
/-! SUPPORT. A cycle as one chain, the step of the execute slot with the rest of the cycle behind it, and when an interrupt comes
before it (40_engine.md R131, R137; 60_exceptions.md R230): O49 and O5. -/

namespace Sys2Proof.Machine

/-- A chain of three parts may be read from either end. -/
theorem andThen_assoc {α β γ : Type} (o : Host.Outcome α Fault Refusal) (f : α → Host.Outcome β Fault Refusal)
    (g : β → Host.Outcome γ Fault Refusal) : andThen (andThen o f) g = andThen o (fun a => andThen (f a) g) := by
  cases o <;> rfl

/-- Without a reset and without an interrupt a cycle steps the execute slot, then finishes (40_engine.md R137, R146). -/
theorem step_of_steps {s : State} (h : s.steps) : step s = andThen s.stepEx State.finish := by
  obtain ⟨hwf, hrst, haccept⟩ := h
  rw [step, if_pos hwf, if_neg (by simp [hrst]), State.systemCycle, State.cpuTick, if_neg (by simp [haccept]), andThen_assoc]
  rfl

/-- The execute slot is between instructions: empty, or with one neither begun nor prefixed (60_exceptions.md R230). -/
theorem betweenInstructions_iff {s : State} :
    s.betweenInstructions = true ↔ ∀ inst, s.ex = some inst → inst.started = false ∧ inst.upper = none := by
  unfold State.betweenInstructions
  cases s.ex <;> simp

/-- The four conditions of an acceptance (60_exceptions.md R230). -/
theorem acceptsInterrupt_iff {s : State} :
    s.acceptsInterrupt = true ↔ s.irqAgg ≠ 0 ∧ s.msr &&& s.cfg.msrIe ≠ 0 ∧ s.immPend = false ∧
      ∀ inst, s.ex = some inst → inst.started = false ∧ inst.upper = none := by
  simp only [State.acceptsInterrupt, State.interruptsEnabled, Bool.and_eq_true, decide_eq_true_eq, Bool.not_eq_true',
    betweenInstructions_iff, and_assoc]

/-- Settles O49: the conjuncts of the check, and the chain of a cycle that passes it by. -/
theorem interruptAcceptance : Obligations.InterruptAcceptance :=
  fun _ => ⟨acceptsInterrupt_iff, fun hwf hrst haccept => step_of_steps ⟨hwf, hrst, haccept⟩⟩

/-- An instruction whose counter has resolved performs its effect (40_engine.md R131). -/
theorem stepEx_of_resolved {s : State} {inst : Inst} {i : Instr} (hex : s.ex = some inst)
    (hexit : s.cfg.exitAddr ≠ some inst.ipc) (hkind : inst.kind = .instr i) (hcnt : (s.begun inst).cnt ≤ 1) :
    s.stepEx = exec i (s.resolved inst) := by
  simp only [State.stepEx, hex, hexit, if_false, hkind, State.stepInstr, Nat.not_lt.mpr hcnt]
  rfl

/-- An instruction whose counter has not resolved counts down and stalls (40_engine.md R131). -/
theorem stepEx_of_counting {s : State} {inst : Inst} {i : Instr} (hex : s.ex = some inst)
    (hexit : s.cfg.exitAddr ≠ some inst.ipc) (hkind : inst.kind = .instr i) (hcnt : 1 < (s.begun inst).cnt) :
    s.stepEx = .next { s with ex := some { s.begun inst with cnt := (s.begun inst).cnt - 1 }, status := .stall } := by
  simp only [State.stepEx, hex, hexit, if_false, hkind, State.stepInstr, hcnt, if_true]

/-- Settles O5: the slot holds the decoded instruction, and its latency has resolved. -/
theorem stepRunsDecodedInstruction : Obligations.StepRunsDecodedInstruction := by
  intro s inst w i hsteps hex hexit hkind hdecode hcnt
  rw [kindOf_of_ok hdecode] at hkind
  rw [step_of_steps hsteps, stepEx_of_resolved hex hexit hkind hcnt, State.resolved]

end Sys2Proof.Machine
end

section
/-! SUPPORT. Interrupt entry (60_exceptions.md R231): the resume address by slot order, the enable bit, and the frame: O50. -/

namespace Sys2Proof.Machine

/-- An accepted interrupt is entered in place of the step of the execute slot (40_engine.md R137, R146). -/
theorem step_of_accept {s : State} (hwf : s.cfg.wf = true) (hrst : s.rst = false) (haccept : s.acceptsInterrupt = true) :
    step s = .next s.interruptEntry.endCycle := by
  simp [step, hwf, hrst, State.systemCycle, State.cpuTick, haccept]

/-- The resume address is that of the oldest filled slot, or PC (60_exceptions.md R231). -/
theorem resumeAddress_eq (s : State) :
    s.resumeAddress = (s.ex.map Inst.ipc <|> s.de.map Inst.ipc <|> s.fe.map FetchSlot.addr).getD s.pc := by
  unfold State.resumeAddress
  cases s.ex with
  | some inst => rfl
  | none =>
    cases s.de with
    | some inst => rfl
    | none => cases s.fe <;> rfl

/-- The general registers behind an interrupt entry are those of the link write (60_exceptions.md R231). -/
theorem interruptEntry_reg (s : State) (q : RegIdx) :
    s.interruptEntry.endCycle.reg q = (s.writeReg s.cfg.intLink s.resumeAddress).reg q :=
  State.reg_congr rfl rfl q

/-- MSR without the enable bit, bit by bit (60_exceptions.md R231). -/
theorem getLsbD_msrWithoutIe (s : State) (b : Nat) :
    s.msrWithoutIe.getLsbD b = (s.msr.getLsbD b && !s.cfg.msrIe.getLsbD b) := by
  rw [State.msrWithoutIe, BitVec.getLsbD_and, BitVec.getLsbD_not]
  by_cases hb : b < 32
  · simp [hb]
  · simp [BitVec.getLsbD_of_ge s.msr b (by omega)]

/-- Settles O50: the link write and the enable bit, and nothing else but the slots, PC, the status and the devices' tick. -/
theorem interruptEntry : Obligations.InterruptEntry := by
  intro s hwf hrst haccept
  refine ⟨s.interruptEntry.endCycle, step_of_accept hwf hrst haccept, ?link, ?others, getLsbD_msrWithoutIe s, rfl, rfl, rfl, rfl,
    rfl, rfl, ⟨rfl, rfl, rfl, rfl⟩, ⟨rfl, rfl⟩, fun _ => rfl, rfl, rfl, rfl, hrst, rfl, rfl, rfl, rfl⟩
  case link => exact resumeAddress_eq s ▸ (interruptEntry_reg s _).trans (s.reg_writeReg_self ..)
  case others => exact fun q hq => (interruptEntry_reg s q).trans (s.reg_writeReg_ne _ (by simpa using hq))

end Sys2Proof.Machine
end

section
/-! SUPPORT. The devices' half of a cycle behind the CPU's (40_engine.md R146, R147; 60_exceptions.md R251, R270): O40. -/

namespace Sys2Proof.Machine

/-- The sum of the requests is the number of devices that ask (60_exceptions.md R251). -/
theorem irqSum_eq_length (ds : List DeviceState) : irqSum ds = (ds.filter DeviceState.irq).length := by
  induction ds with
  | nil => rfl
  | cons d ds ih =>
    rw [irqSum, List.map_cons, List.sum_cons, ← irqSum, ih]
    cases hirq : d.irq <;> simp [hirq, Nat.add_comm]

/-- The sum of the requests is not 0 exactly when a device asks (60_exceptions.md R251). -/
theorem irqSum_ne_zero_iff (ds : List DeviceState) : irqSum ds ≠ 0 ↔ ∃ d ∈ ds, d.irq = true := by
  rw [irqSum_eq_length, Ne, List.length_eq_zero_iff, List.filter_eq_nil_iff]
  simp

@[simp] theorem State.endCycle_irqAgg (s : State) : s.endCycle.irqAgg = irqSum s.endCycle.devices := rfl

@[simp] theorem State.endCycle_txOut (s : State) : s.endCycle.txOut = s.devices.filterMap DeviceState.emitted := rfl

@[simp] theorem State.endCycle_txSink (s : State) : s.endCycle.txSink = s.txSink ++ s.endCycle.txOut := rfl

/-- The CPU's half of a cycle leaves the configuration, CYCLE and the bytes already emitted (40_engine.md R146). -/
theorem cpuTick_system {s t : State} (h : s.cpuTick = .next t) :
    t.cfg = s.cfg ∧ t.cycle = s.cycle ∧ t.txSink = s.txSink := by
  rcases cpuTick_next h with ⟨-, rfl⟩ | ⟨-, u, hex, hsettle⟩
  · exact ⟨rfl, rfl, rfl⟩
  · obtain ⟨_, _, _, _, _, _, _, _, rfl⟩ := settle_keeps hsettle
    obtain ⟨_, _, _, _, _, _, _, _, _, _, _, _, _, _, rfl⟩ := stepEx_keeps hex
    exact ⟨rfl, rfl, rfl⟩

/-- The devices' half of a cycle leaves the CPU as it is (40_engine.md R146). -/
theorem sameCpu_endCycle (s : State) : SameCpu s s.endCycle :=
  ⟨rfl, rfl, rfl, ⟨rfl, rfl, rfl, rfl⟩, ⟨rfl, rfl⟩, rfl, rfl, rfl, rfl, rfl, rfl⟩

/-- Settles O40: a cycle without reset is the CPU's half, which leaves the system's side, and the devices' half, which leaves the
CPU. -/
theorem cycleTicksEveryDevice : Obligations.CycleTicksEveryDevice := by
  intro s t hrst hstep
  obtain ⟨-, ⟨hreset, -⟩ | ⟨-, u, htick, rfl⟩⟩ := step_next hstep
  · simp [hrst] at hreset
  · obtain ⟨hcfg, hcycle, hsink⟩ := cpuTick_system htick
    refine ⟨u, htick, ?devices, irqSum_eq_length _, ?request, rfl, ?sink, ?cycle, hcfg, rfl, sameCpu_endCycle u, rfl⟩
    case devices => rw [State.endCycle_devices, hcfg]
    case request => rw [State.irqOut, decide_eq_true_eq, State.endCycle_irqAgg, irqSum_ne_zero_iff]
    case sink => rw [State.endCycle_txSink, hsink]
    case cycle => rw [State.endCycle_cycle, hcycle]

end Sys2Proof.Machine
end

section
/-! SUPPORT. The controller on JUMP and on the statuses that hold the pipeline (40_engine.md R139 to R141): what the step of the
execute slot keeps of the instruction in it and of PC, then O43 and O44. -/

namespace Sys2Proof.Machine

/-! ### The step of the execute slot -/

/-- The step of the execute slot leaves the slots behind it, RETIRED, the delay-slot mark and the configuration (40_engine.md R131). -/
theorem stepEx_pipeline {s u : State} (h : s.stepEx = .next u) :
    u.de = s.de ∧ u.fe = s.fe ∧ u.retired = s.retired ∧ u.dsArmed = s.dsArmed ∧ u.cfg = s.cfg := by
  obtain ⟨_, _, _, _, _, _, _, _, _, _, _, _, _, _, rfl⟩ := stepEx_keeps h
  exact ⟨rfl, rfl, rfl, rfl, rfl⟩

/-- A status other than NORMAL comes from an instruction in the slot (40_engine.md R133). -/
theorem stepEx_exists_of_not_normal {s u : State} (h : s.stepEx = .next u) (hstatus : u.status ≠ .normal) :
    ∃ inst, s.ex = some inst := by
  cases hex : s.ex with
  | some inst => exact ⟨inst, rfl⟩
  | none =>
    rw [stepEx_of_empty hex] at h
    cases h
    exact absurd rfl hstatus

/-- Beginning an instruction leaves its latency (40_engine.md R131). -/
theorem begun_lat (s : State) (inst : Inst) : (s.begun inst).lat = inst.lat := by
  unfold State.begun
  split <;> rfl

/-- The step of the execute slot writes of the instruction in it only the counter and the mark that it has begun (40_engine.md
R131). -/
theorem stepEx_inst {s u : State} {e : Inst} (h : s.stepEx = .next u) (hex : s.ex = some e) :
    ∃ e', u.ex = some e' ∧ e'.kind = e.kind ∧ e'.ipc = e.ipc ∧ e'.lat = e.lat ∧ e'.clat = e.clat ∧ e'.upper = e.upper := by
  have hlat := begun_lat s e
  obtain ⟨hkind, hipc, hupper, hclat, -⟩ := begun_spec s e
  rcases stepEx_next h with ⟨hnone, -⟩ | ⟨_, -, -, rfl⟩ | ⟨_, _, -, -, -, rfl⟩ | ⟨inst, _, hinst, -, -, -, rfl⟩ |
    ⟨inst, i, hinst, -, -, -, hexec⟩
  · rw [hex] at hnone; cases hnone
  · exact ⟨e, hex, rfl, rfl, rfl, rfl, rfl⟩
  · exact ⟨e, hex, rfl, rfl, rfl, rfl, rfl⟩
  · cases hex.symm.trans hinst
    exact ⟨_, rfl, hkind, hipc, hlat, hclat, hupper⟩
  · cases hex.symm.trans hinst
    obtain ⟨_, _, _, _, _, _, _, _, _, _, _, _, _, rfl⟩ := exec_keeps hexec
    exact ⟨_, rfl, hkind, hipc, hlat, hclat, hupper⟩

/-- An instruction's effect that does not answer JUMP leaves PC (42_branch.md R183). -/
theorem ExecLeaves.pc_of_not_jump {i : Instr} {s t : State} (h : ExecLeaves i s t) (hjump : t.status ≠ .jump) : t.pc = s.pc := by
  cases h with
  | access store rD ea t accesses leaves => cases leaves <;> rfl
  | taken | links => exact absurd rfl hjump
  | writes | unknownSelector | notTaken | prefixes | clears => rfl

/-- The step of the execute slot that does not answer JUMP leaves PC. -/
theorem stepEx_pc_of_not_jump {s u : State} (h : s.stepEx = .next u) (hjump : u.status ≠ .jump) : u.pc = s.pc := by
  rcases stepEx_leaves h with ⟨inst, i, -, -, hleaves⟩ | ⟨st, rfl⟩ | ⟨inst, -, -, rfl⟩
  · exact hleaves.pc_of_not_jump hjump
  · rfl
  · rfl

/-! ### The controller -/

/-- A retirement counts the instruction in EX (40_engine.md R143). -/
theorem retire_retired_of_some {s : State} {inst : Inst} (h : s.ex = some inst) : s.retire.retired = s.retired + 1 := by
  simp [State.retire, h]

/-- On JUMP the controller flushes (40_engine.md R139). -/
theorem settle_of_jump {u v : State} (h : u.settle = .next v) (hjump : u.status = .jump) : v = u.flush := by
  rcases settle_next h with ⟨hnormal, -⟩ | ⟨-, hflush⟩ | ⟨-, hno, -⟩
  · rw [hjump] at hnormal; cases hnormal
  · exact hflush
  · exact absurd hjump hno

/-- On the statuses but NORMAL and JUMP the controller does nothing (40_engine.md R140, R141). -/
theorem settle_of_held {u v : State} (h : u.settle = .next v) (hnormal : u.status ≠ .normal) (hjump : u.status ≠ .jump) : v = u := by
  rcases settle_next h with ⟨hyes, -⟩ | ⟨hyes, -⟩ | ⟨-, -, hheld⟩
  · exact absurd hyes hnormal
  · exact absurd hyes hjump
  · exact hheld

/-- A flush leaves PC and IMMPEND (40_engine.md R139). -/
theorem flush_keeps (s : State) : s.flush.pc = s.pc ∧ s.flush.immPend = s.immPend :=
  ⟨s.retire_pc, s.retire_immPend⟩

/-- A cycle with an empty execute slot fetches at PC (40_engine.md R133, R138). -/
theorem fetches_of_empty {s t : State} (hrst : s.rst = false) (haccept : s.acceptsInterrupt = false) (hex : s.ex = none)
    (hstep : step s = .next t) : t.fe = some ⟨s.pc, s.fetch s.pc⟩ := by
  rcases cycle_next hrst hstep with ⟨hyes, -⟩ | ⟨-, u, v, hslot, hsettle, rfl⟩
  · simp [haccept] at hyes
  · rw [stepEx_of_empty hex] at hslot
    cases hslot
    obtain ⟨-, -, -, hfe, -⟩ := settle_of_normal hsettle rfl
    exact hfe

/-! ### The statements -/

/-- Settles O43: the controller flushes what the step of the execute slot left, and the next cycle starts from empty slots. -/
theorem jumpDiscardsFetched : Obligations.JumpDiscardsFetched := by
  intro s t hrst haccept hstep hjump
  rcases cycle_next hrst hstep with ⟨hyes, -⟩ | ⟨-, u, v, hslot, hsettle, rfl⟩
  · simp [haccept] at hyes
  · have hujump : u.status = .jump := (settle_status hsettle).symm.trans hjump
    have hkept := effectKept_of_settle hsettle
    obtain ⟨e, hex⟩ := stepEx_exists_of_not_normal hslot (by simp [hujump])
    obtain ⟨e', hex', -⟩ := stepEx_inst hslot hex
    obtain ⟨-, -, hretired, -, -⟩ := stepEx_pipeline hslot
    cases settle_of_jump hsettle hujump
    obtain ⟨hpc, himm⟩ := flush_keeps u
    refine ⟨by simp [hex], ?_, rfl, rfl, rfl, ⟨u, hslot, hkept, hpc, himm⟩, fun w hrst' haccept' hnext => ?_⟩
    · rw [← hretired]
      exact retire_retired_of_some hex'
    · exact fetches_of_empty hrst' haccept' rfl hnext

/-- Settles O44: the controller leaves what the step of the execute slot left, which keeps the instruction and, without a JUMP, PC. -/
theorem otherStatusHoldsThePipeline : Obligations.OtherStatusHoldsThePipeline := by
  intro s t hrst hstep hnormal hjump
  obtain ⟨hwf, -⟩ := step_next hstep
  rcases cycle_next hrst hstep with ⟨-, rfl⟩ | ⟨-, u, v, hslot, hsettle, rfl⟩
  · exact absurd rfl hjump
  · have hstatus : v.status = u.status := settle_status hsettle
    have hunormal : u.status ≠ .normal := hstatus ▸ hnormal
    have hujump : u.status ≠ .jump := hstatus ▸ hjump
    have hkept := effectKept_of_settle hsettle
    obtain ⟨e, hex⟩ := stepEx_exists_of_not_normal hslot hunormal
    obtain ⟨e', hex', hsame⟩ := stepEx_inst hslot hex
    obtain ⟨hde, hfe, hretired, -, hcfg⟩ := stepEx_pipeline hslot
    have hpc := stepEx_pc_of_not_jump hslot hujump
    cases settle_of_held hsettle hunormal hujump
    refine ⟨hde, hfe, hpc, hretired, ⟨u, hslot, hkept, rfl, rfl, rfl, rfl⟩, fun hrst' haccept' => ?_, e, e', hex, hex', hsame⟩
    have hwf' : u.endCycle.cfg.wf = true := hcfg ▸ hwf
    exact step_of_steps ⟨hwf', hrst', haccept'⟩

end Sys2Proof.Machine
end

section
/-! SUPPORT. Where a step can stop (93_implementation_defined.md U1 to U4): the bus call by its target, then the instruction's effect,
the step of the execute slot and the controller, each with its stops: O59. -/

namespace Sys2Proof.Machine

/-! ### The register a target names is there -/

/-- A register target is the REGMAP entry of the address (20_memory.md R65). -/
theorem regMap_of_target {c : Config} {a : Word} {r : RegRef} (h : targetOf c a = .register r) : regMap c a = some r := by
  unfold targetOf at h
  split at h
  · cases h
  all_goals
    split at h <;> cases h
    assumption

/-- A device has every register its variant declares (10_state.md R38, R39). -/
theorem exists_reg_of_declared {d : DeviceState} {n : RegName} (h : n ∈ d.variant.declared) : ∃ reg, d.reg? n = some reg := by
  cases d with
  | timer t =>
    cases n with
    | tcsr0 | tlr0 | tcr0 | tcsr1 | tlr1 | tcr1 => exact ⟨_, rfl⟩
    | ctrl | status | rx | tx => simp [DeviceState.variant, Variant.declared] at h
  | byteStream b =>
    cases n with
    | ctrl | status | rx | tx => exact ⟨_, rfl⟩
    | tcsr0 | tlr0 | tcr0 | tcsr1 | tlr1 | tcr1 => simp [DeviceState.variant, Variant.declared] at h

/-- Every register a bus target names is in the device list (20_memory.md R84, log entry 18). -/
theorem exists_registerOf {s : State} (hwf : s.cfg.wf = true) (hmatch : s.devicesMatch) {a : Word} {r : RegRef}
    (h : targetOf s.cfg a = .register r) : ∃ reg, s.registerOf r = some reg := by
  obtain ⟨d, hd, hwired, -⟩ := (regMap_iff_of_wf hwf).mp (regMap_of_target h)
  obtain ⟨-, -, -, -, hdeclared, -⟩ := wf_parts hwf
  have hname : r.name ∈ d.variant.declared :=
    (registersDeclared_iff.mp (List.all_eq_true.mp hdeclared d (List.mem_of_getElem? hd))).mem_iff.mp (List.mem_map_of_mem hwired)
  have hplace : (s.devices[r.dev]?).map DeviceState.variant = some d.variant := by
    rw [← List.getElem?_map, hmatch, List.getElem?_map, hd]
    rfl
  obtain ⟨dev, hdev, hvariant⟩ := Option.map_eq_some_iff.mp hplace
  obtain ⟨reg, hreg⟩ := exists_reg_of_declared (hvariant ▸ hname)
  exact ⟨reg, by simp [State.registerOf, hdev, hreg]⟩

/-- A register that is there can be read (20_memory.md R70). -/
theorem readRegister_of_some {s : State} {r : RegRef} {reg : DevReg} (h : s.registerOf r = some reg) :
    ∃ vs, s.readRegister r = .next vs := by
  rw [State.registerOf] at h
  unfold State.readRegister
  rw [h]
  simp only
  split <;> exact ⟨_, rfl⟩

/-- A register that is there can be written (20_memory.md R71). -/
theorem writeRegister_of_some {s : State} {r : RegRef} {reg : DevReg} (h : s.registerOf r = some reg) (n : Width) (a d : Word) :
    ∃ t, s.writeRegister r n a d = .next t := by
  rw [State.registerOf] at h
  unfold State.writeRegister
  rw [h]
  exact ⟨_, rfl⟩

/-! ### The bus call -/

/-- A completing read answers, unless nothing stands at the address or a byte is absent (20_memory.md R68, R70, R72, R73). -/
theorem memRead_answers {s : State} (hwf : s.cfg.wf = true) (hmatch : s.devicesMatch) (n : Width) (a : Word) :
    (∃ vs, s.memRead n a = .next vs) ∨ targetOf s.cfg a = .unmapped ∨
      (targetOf s.cfg a = .image ∧ s.mem.load s.cfg.bigEndian n a = none) := by
  unfold State.memRead
  cases htarget : targetOf s.cfg a with
  | unmapped => exact .inr (.inl rfl)
  | image =>
    cases hload : s.mem.load s.cfg.bigEndian n a with
    | none => exact .inr (.inr ⟨rfl, rfl⟩)
    | some v => exact .inl ⟨_, rfl⟩
  | register r =>
    obtain ⟨reg, hreg⟩ := exists_registerOf hwf hmatch htarget
    obtain ⟨vs, hread⟩ := readRegister_of_some hreg
    simp only [hread, andThen_of_next]
    exact .inl ⟨_, rfl⟩

/-- A completing write answers, unless nothing stands at the address (20_memory.md R69, R71, R72). -/
theorem memWrite_answers {s : State} (hwf : s.cfg.wf = true) (hmatch : s.devicesMatch) (n : Width) (a d : Word) :
    (∃ t, s.memWrite n a d = .next t) ∨ targetOf s.cfg a = .unmapped := by
  unfold State.memWrite
  cases htarget : targetOf s.cfg a with
  | unmapped => exact .inr rfl
  | image => exact .inl ⟨_, rfl⟩
  | register r =>
    obtain ⟨reg, hreg⟩ := exists_registerOf hwf hmatch htarget
    exact .inl (writeRegister_of_some hreg n a d)

/-- A bus call answers, unless it completes where nothing stands or reads an absent byte (20_memory.md R67, R72, R73). -/
theorem bus_answers {s : State} (hwf : s.cfg.wf = true) (hmatch : s.devicesMatch) (k : BusKind) (n : Width) (a d : Word) :
    (∃ r, s.bus k n a d = .next r) ∨
    (misaligned n a = false ∧ s.busCount k n a d = 0 ∧ (targetOf s.cfg a = .unmapped ∨
      (k = .read ∧ targetOf s.cfg a = .image ∧ s.mem.load s.cfg.bigEndian n a = none))) := by
  cases haligned : misaligned n a with
  | true => exact .inl ⟨_, bus_of_misaligned haligned s k d⟩
  | false =>
    rcases Nat.eq_zero_or_pos (s.busCount k n a d) with hdone | hcounting
    · cases k with
      | read =>
        rw [bus_read_of_done haligned hdone]
        rcases memRead_answers (s := { s with pend := none }) hwf hmatch n a with ⟨vs, hread⟩ | hunmapped | habsent
        · exact .inl ⟨_, by rw [hread, andThen_of_next]⟩
        · exact .inr ⟨rfl, hdone, .inl hunmapped⟩
        · exact .inr ⟨rfl, hdone, .inr ⟨rfl, habsent⟩⟩
      | write =>
        rw [bus_write_of_done haligned hdone]
        rcases memWrite_answers (s := { s with pend := none }) hwf hmatch n a d with ⟨t, hwrite⟩ | hunmapped
        · exact .inl ⟨_, by rw [hwrite, andThen_of_next]⟩
        · exact .inr ⟨rfl, hdone, .inl hunmapped⟩
    · exact .inl ⟨_, bus_of_counting haligned hcounting⟩

/-- Bytes that do not join are not all there. -/
theorem Memory.exists_absent_of_join {m : Memory} {xs : List Nat} {acc : Word} (h : m.join xs acc = none) :
    ∃ x ∈ xs, m.read x = none := by
  induction xs generalizing acc with
  | nil => cases h
  | cons y ys ih =>
    rw [Memory.join] at h
    split at h
    · obtain ⟨x, hx, habsent⟩ := ih h
      exact ⟨x, List.mem_cons_of_mem y hx, habsent⟩
    · exact ⟨y, List.mem_cons_self, by assumption⟩

/-- A half-word that does not load has an absent byte (20_memory.md R73). -/
theorem Memory.absent_of_load_half {m : Memory} {big : Bool} {a : Word} (h : m.load big .half a = none) :
    m.read a.toNat = none ∨ m.read (a.toNat + 1) = none := by
  obtain ⟨x, hx, habsent⟩ := Memory.exists_absent_of_join h
  obtain ⟨hlow, hhigh⟩ := mem_laneAddrs.mp hx
  simp only [Width.bytes] at hhigh
  obtain rfl | rfl : x = a.toNat ∨ x = a.toNat + 1 := by omega
  · exact .inl habsent
  · exact .inr habsent

/-! ### The instruction's effect -/

/-- The two cases of a completing half-word access that the spec leaves without a result, with the fault that names each
(93_implementation_defined.md U2, U3). -/
inductive AccessStops (i : Instr) (s : State) : Fault → Prop
  | absentByte (rD : RegIdx) (ea : Word) (accesses : AccessOf false i s rD ea) (completes : AccessCount false s rD ea 0)
      (even : ea.toNat % 2 = 0) (image : targetOf s.cfg ea = .image)
      (absent : s.mem.read ea.toNat = none ∨ s.mem.read (ea.toNat + 1) = none) : AccessStops i s (.uninitialisedRead ea)
  | noRegister (store : Bool) (rD : RegIdx) (ea : Word) (accesses : AccessOf store i s rD ea)
      (completes : AccessCount store s rD ea 0) (even : ea.toNat % 2 = 0) (unmapped : targetOf s.cfg ea = .unmapped) :
      AccessStops i s (.unmappedAccess ea)

/-- An access in one of the two cases stops with the fault of the case (20_memory.md R72, R73). -/
theorem AccessStops.faults {i : Instr} {s : State} {r : Fault} (h : AccessStops i s r) : exec i s = .fault r := by
  cases h with
  | absentByte rD ea accesses completes even image absent =>
    exact (accessFaultsByName false i s rD ea accesses completes even).2 image rfl absent
  | noRegister store rD ea accesses completes even unmapped =>
    exact (accessFaultsByName store i s rD ea accesses completes even).1 unmapped

/-- A half-word access answers outside the two cases (43_load_store.md R190). -/
theorem access_answers {store : Bool} {i : Instr} {s : State} {rD : RegIdx} {ea : Word} (hwf : s.cfg.wf = true)
    (hmatch : s.devicesMatch) (haccess : AccessOf store i s rD ea) : (∃ t, exec i s = .next t) ∨ ∃ r, AccessStops i s r := by
  rcases bus_answers hwf hmatch (accessKind store) .half ea (s.accessDatum store rD) with
    ⟨r, hbus⟩ | ⟨haligned, hdone, hunmapped | ⟨hread, himage, hload⟩⟩
  · exact .inl ⟨_, by rw [exec_access haccess, hbus, andThen_of_next]⟩
  · exact .inr ⟨_, .noRegister store rD ea haccess (accessCount_iff.mpr hdone) (misaligned_half.mp haligned) hunmapped⟩
  · cases store with
    | true => cases hread
    | false =>
      exact .inr ⟨_, .absentByte rD ea haccess (accessCount_iff.mpr hdone) (misaligned_half.mp haligned) himage
        (Memory.absent_of_load_half hload)⟩

/-- An instruction's effect answers, unless it is an access in one of the two cases. -/
theorem exec_answers {s : State} (hwf : s.cfg.wf = true) (hmatch : s.devicesMatch) (i : Instr) :
    (∃ t, exec i s = .next t) ∨ ∃ r, AccessStops i s r := by
  cases i with
  | lhu rD rA rB => exact access_answers (store := false) (rD := rD) hwf hmatch (.inl ⟨rA, rB, rfl, rfl⟩)
  | lhui rD rA imm16 => exact access_answers (store := false) (rD := rD) hwf hmatch (.inr ⟨rA, imm16, rfl, rfl⟩)
  | sh rD rA rB => exact access_answers (store := true) (rD := rD) hwf hmatch (.inl ⟨rA, rB, rfl, rfl⟩)
  | shi rD rA imm16 => exact access_answers (store := true) (rD := rD) hwf hmatch (.inr ⟨rA, imm16, rfl, rfl⟩)
  | mfs rD sel =>
    simp only [exec, execMfs]
    split <;> exact .inl ⟨_, rfl⟩
  | addik | imm | beqi | blt | bralid | msrclr | pcmpbf | pcmpeq | sext8 => exact .inl ⟨_, rfl⟩

/-- An access that stops in the state in which the effect is performed is such an access before the step too (40_engine.md R131). -/
theorem accessStops_of_resolved {i : Instr} {s : State} {inst : Inst} {r : Fault} (hex : s.ex = some inst)
    (h : AccessStops i (s.resolved inst) r) : AccessStops i s r := by
  cases h with
  | absentByte rD ea accesses completes even image absent =>
    exact .absentByte rD ea ((accessOf_resolved hex).mp accesses) completes even image absent
  | noRegister store rD ea accesses completes even unmapped =>
    refine .noRegister store rD ea ((accessOf_resolved hex).mp accesses) ?_ even unmapped
    cases store <;> exact completes

/-! ### The step of the execute slot -/

/-- The step of the execute slot answers, unless the slot holds an access that stops or an absent word (40_engine.md R131, R135). -/
theorem stepEx_answers {s : State} (hwf : s.cfg.wf = true) (hmatch : s.devicesMatch) :
    (∃ u, s.stepEx = .next u) ∨
    (∃ inst i r, s.ex = some inst ∧ inst.kind = .instr i ∧ AccessStops i s r ∧ s.stepEx = .fault r) ∨
    (∃ inst, s.ex = some inst ∧ inst.kind = .unfetchable ∧ s.stepEx = .fault (.noInstruction inst.ipc)) := by
  cases hex : s.ex with
  | none => exact .inl ⟨_, stepEx_of_empty hex⟩
  | some inst =>
    by_cases hexit : s.cfg.exitAddr = some inst.ipc
    · exact .inl ⟨_, stepEx_of_exit hex hexit⟩
    · cases hkind : inst.kind with
      | unfetchable => exact .inr (.inr ⟨inst, rfl, hkind, stepEx_of_unfetchable hex hexit hkind⟩)
      | illegal w => exact .inl ⟨_, stepEx_of_illegal hex hexit hkind⟩
      | instr i =>
        by_cases hcnt : (s.begun inst).cnt ≤ 1
        · have hstep := stepEx_of_resolved hex hexit hkind hcnt
          rcases exec_answers (s := s.resolved inst) hwf hmatch i with ⟨u, hexec⟩ | ⟨r, hstops⟩
          · exact .inl ⟨u, hstep.trans hexec⟩
          · exact .inr (.inl ⟨inst, i, r, rfl, hkind, accessStops_of_resolved hex hstops, hstep.trans hstops.faults⟩)
        · exact .inl ⟨_, stepEx_of_counting hex hexit hkind (by omega)⟩

/-! ### The controller -/

/-- The instruction in DE takes no immediate, and an IMM pends (93_implementation_defined.md U1). -/
def State.prefixStrands (s : State) (d : Inst) : Prop := s.de = some d ∧ d.kind.consumesImmediate = false ∧ s.immPend = true

/-- Finalisation answers, unless an IMM pends before what takes no immediate (40_engine.md R142). -/
theorem finalise_answers (s : State) (d : Inst) :
    (∃ r, s.finalise d = .next r) ∨
    (d.kind.consumesImmediate = false ∧ s.immPend = true ∧ s.finalise d = .refused (.prefixWithoutConsumer d.ipc)) := by
  unfold State.finalise
  cases htakes : d.kind.consumesImmediate with
  | true =>
    rw [if_pos rfl]
    split <;> exact .inl ⟨_, rfl⟩
  | false =>
    cases hpend : s.immPend with
    | true => exact .inr ⟨rfl, rfl, rfl⟩
    | false => exact .inl ⟨_, rfl⟩

/-- Filling EX answers, unless an IMM pends before what takes no immediate (40_engine.md R138, R142). -/
theorem fillEx_answers (s : State) :
    (∃ t, s.fillEx = .next t) ∨ ∃ d, s.prefixStrands d ∧ s.fillEx = .refused (.prefixWithoutConsumer d.ipc) := by
  unfold State.fillEx
  cases hde : s.de with
  | none => exact .inl ⟨_, rfl⟩
  | some d =>
    rcases finalise_answers s d with ⟨r, hfinal⟩ | ⟨htakes, hpend, hfinal⟩
    · exact .inl ⟨{ r.2 with ex := some r.1 }, by simp only [hfinal, andThen_of_next]⟩
    · exact .inr ⟨d, ⟨hde, htakes, hpend⟩, by simp only [hfinal, andThen_of_refused]⟩

/-- The rest of the cycle answers, unless an IMM pends before what takes no immediate (40_engine.md R137 to R142). -/
theorem finish_answers (u : State) :
    (∃ t, u.finish = .next t) ∨ ∃ d, u.prefixStrands d ∧ u.finish = .refused (.prefixWithoutConsumer d.ipc) := by
  unfold State.finish State.settle
  cases hstatus : u.status with
  | normal =>
    simp only [State.advance]
    rcases fillEx_answers u.retire with ⟨t, hfill⟩ | ⟨d, ⟨hde, htakes, hpend⟩, hfill⟩
    · exact .inl ⟨t.shiftFetch.endCycle, by simp only [hfill, andThen_of_next]⟩
    · rw [State.retire_de] at hde
      rw [State.retire_immPend] at hpend
      exact .inr ⟨d, ⟨hde, htakes, hpend⟩, by simp only [hfill, andThen_of_refused]⟩
  | jump | stall | memAccess | memMapped | memUnaligned | illegal | breakpoint | stop => exact .inl ⟨_, rfl⟩

/-- An IMM that pends behind the step of the execute slot pended before it, or an IMM is in the slot (41_arith_imm.md R171). -/
theorem immPend_origin {s u : State} (h : s.stepEx = .next u) (hpend : u.immPend = true) :
    s.immPend = true ∨ ∃ inst imm16, s.ex = some inst ∧ inst.kind = .instr (.imm imm16) := by
  by_cases himm : ∃ inst imm16, s.ex = some inst ∧ inst.kind = .instr (.imm imm16)
  · exact .inr himm
  · have hsame := stepEx_immPend h fun inst imm16 hex hkind => himm ⟨inst, imm16, hex, hkind⟩
    exact .inl (hsame.symm.trans hpend)

/-! ### The statement -/

/-- Settles O59: a reset and an interrupt entry answer; otherwise the step of the execute slot answers or is one of the first three
cases, and behind it the controller answers or is the fourth. -/
theorem stepStopsOnlyWhereOpen : Obligations.StepStopsOnlyWhereOpen := by
  intro s hinv hwf
  cases hrst : s.rst with
  | true => exact .inl ⟨s.resetOp, by simp [step, hwf, hrst]⟩
  | false =>
    cases haccept : s.acceptsInterrupt with
    | true => exact .inl ⟨_, step_of_accept hwf hrst haccept⟩
    | false =>
      rw [step_of_steps ⟨hwf, hrst, haccept⟩]
      rcases stepEx_answers hwf hinv.devices with ⟨u, hslot⟩ | ⟨inst, i, r, hex, hkind, hstops, hslot⟩ | ⟨inst, hex, hkind, hslot⟩
      · rw [hslot, andThen_of_next]
        rcases finish_answers u with hnext | ⟨d, ⟨hde, htakes, hpend⟩, hrefused⟩
        · exact .inl hnext
        · obtain ⟨hsame, -⟩ := stepEx_pipeline hslot
          exact .inr (.inr (.inr (.inr ⟨d, hsame.symm.trans hde, htakes, immPend_origin hslot hpend, hrefused⟩)))
      · rw [hslot, andThen_of_fault]
        cases hstops with
        | absentByte rD ea accesses completes even image absent =>
          exact .inr (.inl ⟨inst, i, rD, ea, hex, hkind, accesses, completes, even, image, absent, rfl⟩)
        | noRegister store rD ea accesses completes even unmapped =>
          exact .inr (.inr (.inl ⟨inst, i, store, rD, ea, hex, hkind, accesses, completes, even, unmapped, rfl⟩))
      · rw [hslot, andThen_of_fault]
        exact .inr (.inr (.inr (.inl ⟨inst, hex, hkind, rfl⟩)))

end Sys2Proof.Machine
end

section
/-! SUPPORT. The effects of ADDIK and IMM (41_arith_imm.md R170 to R172): O8 and O9. -/

namespace Sys2Proof.Machine

/-- The effect of ADDIK is one register write and the status (41_arith_imm.md R170, R172). -/
theorem exec_addik_eq (rD rA : RegIdx) (imm16 : BitVec 16) (s : State) :
    exec (.addik rD rA imm16) s = .next ((s.writeReg rD (s.reg rA + s.imm32 imm16)).withStatus .normal) := rfl

/-- The effect of IMM is a write of the two prefix registers and the status (41_arith_imm.md R171). -/
theorem exec_imm_eq (imm16 : BitVec 16) (s : State) :
    exec (.imm imm16) s = .next { s with uimm := imm16 ++ 0#16, immPend := true, status := .normal } := rfl

/-- A write of the prefix state and the status leaves every general register as it reads. -/
theorem sameRegsExcept_nil_of_prefix (s : State) (u : Word) (pending : Bool) (st : Status) :
    SameRegsExcept [] s { s with uimm := u, immPend := pending, status := st } :=
  fun r _ => State.reg_congr rfl rfl r

/-- Settles O8: the sum is written as every instruction with one result writes it, and MSR is left alone. -/
theorem addikWritesWrappedSum : Obligations.AddikWritesWrappedSum := by
  intro rD rA imm16 s
  exact ⟨_, exec_addik_eq rD rA imm16 s, writesOnly_writeReg s rD _ s.msr, rfl⟩

/-- Settles O9: the halves of UIMM are those of the joined half-words; every field but the prefix state and the status is that of the
state before. -/
theorem immLoadsUpperImmediate : Obligations.ImmLoadsUpperImmediate := by
  intro imm16 s
  have hupper : (imm16 ++ 0#16 : Word).extractLsb' 16 16 = imm16 := BitVec.extractLsb'_append_eq_left
  have hlower : (imm16 ++ 0#16 : Word).extractLsb' 0 16 = 0#16 := BitVec.extractLsb'_append_eq_right
  exact ⟨_, exec_imm_eq imm16 s, hupper, hlower, rfl, rfl, sameRegsExcept_nil_of_prefix s _ _ _, rfl, rfl, ⟨rfl, rfl, rfl, rfl⟩,
    fun _ => rfl, ⟨rfl, rfl, rfl, rfl, rfl⟩, ⟨rfl, rfl, rfl, rfl⟩, ⟨rfl, rfl, rfl, rfl, rfl, rfl⟩⟩

end Sys2Proof.Machine
end

section
/-! SUPPORT. The effects of BEQI, BLT and BRALID (42_branch.md R180 to R183): O12, O13 and O14. -/

namespace Sys2Proof.Machine

/-! ### The state's operations -/

/-- The instruction's own address is the one EX holds (10_state.md R32). -/
theorem ipc_of_ex {s : State} {inst : Inst} (hex : s.ex = some inst) : s.ipc = inst.ipc := by
  simp [State.ipc, hex]

/-- The register test of BEQI as a proposition (42_branch.md R180). -/
theorem isZero_iff (s : State) (rA : RegIdx) : s.isZero rA = true ↔ s.reg rA = 0 := by
  simp [State.isZero]

/-- The register test of BLT reads the sign of the register (42_branch.md R181, 41_arith_imm.md R172). -/
theorem isNegative_iff (s : State) (rA : RegIdx) : s.isNegative rA = true ↔ (s.reg rA).toInt < 0 := by
  have hsign : s.isNegative rA = (s.reg rA).msb := (BitVec.msb_eq_getLsbD_last _).symm
  rw [hsign, BitVec.msb_eq_toInt, decide_eq_true_iff]

/-- MSR with the delay-slot bit set, bit by bit (10_state.md R23). -/
theorem msrWithDs_getLsbD (s : State) (b : Nat) : s.msrWithDs.getLsbD b = (s.msr.getLsbD b || s.cfg.msrDs.getLsbD b) :=
  BitVec.getLsbD_or

/-! ### Conditional branches -/

/-- A taken branch jumps, from the address held in EX (42_branch.md R183). -/
theorem branchIf_of_taken {s : State} {inst : Inst} (hex : s.ex = some inst) (offset : Word) :
    s.branchIf true offset = s.jumpTo (inst.ipc + offset) := by
  rw [← ipc_of_ex hex]; rfl

/-- A branch not taken falls through (42_branch.md R183). -/
theorem branchIf_of_not_taken (s : State) (offset : Word) : s.branchIf false offset = s.withStatus .normal := rfl

/-- A conditional branch leaves everything but PC and the status alone. -/
theorem branchIf_frame (s : State) (taken : Bool) (offset : Word) :
    SameButControl [] s (s.branchIf taken offset) ∧ (s.branchIf taken offset).msr = s.msr := by
  obtain ⟨pc, status, hbranch⟩ := branchIf_spec s taken offset
  rw [hbranch]
  exact ⟨⟨fun r _ => State.reg_congr rfl rfl r, ⟨rfl, rfl, rfl, rfl⟩, ⟨rfl, rfl⟩, fun _ => rfl, ⟨rfl, rfl, rfl, rfl, rfl⟩,
    ⟨rfl, rfl, rfl, rfl⟩, ⟨rfl, rfl, rfl, rfl, rfl, rfl⟩⟩, rfl⟩

/-- A branch whose test decides `P` jumps relative to its own address exactly when `P` holds, and writes nothing else. -/
theorem branchIf_decides {s : State} {inst : Inst} (hex : s.ex = some inst) {P : Prop} [Decidable P] {taken : Bool}
    (htest : taken = true ↔ P) (offset : Word) :
    SameButControl [] s (s.branchIf taken offset) ∧ (s.branchIf taken offset).msr = s.msr ∧
      (if P then (s.branchIf taken offset).pc = inst.ipc + offset ∧ (s.branchIf taken offset).status = .jump
        else (s.branchIf taken offset).pc = s.pc ∧ (s.branchIf taken offset).status = .normal) := by
  obtain ⟨hframe, hmsr⟩ := branchIf_frame s taken offset
  refine ⟨hframe, hmsr, ?_⟩
  cases taken with
  | true =>
    rw [if_pos (htest.mp rfl), branchIf_of_taken hex]
    exact ⟨State.jumpTo_pc .., State.jumpTo_status ..⟩
  | false =>
    rw [if_neg fun hP => Bool.noConfusion (htest.mpr hP), branchIf_of_not_taken]
    exact ⟨State.withStatus_pc .., State.withStatus_status ..⟩

/-- The effect of BEQI is a conditional branch by the immediate (42_branch.md R180). -/
theorem exec_beqi_eq (rA : RegIdx) (imm16 : BitVec 16) (s : State) :
    exec (.beqi rA imm16) s = .next (s.branchIf (s.isZero rA) (s.imm32 imm16)) := rfl

/-- The effect of BLT is a conditional branch by rB (42_branch.md R181). -/
theorem exec_blt_eq (rA rB : RegIdx) (s : State) :
    exec (.blt rA rB) s = .next (s.branchIf (s.isNegative rA) (s.reg rB)) := rfl

/-- Settles O12: a conditional branch whose test is that rA is zero. -/
theorem beqiBranchesOnZero : Obligations.BeqiBranchesOnZero := by
  intro rA imm16 s inst hex
  exact ⟨_, exec_beqi_eq rA imm16 s, branchIf_decides hex (isZero_iff s rA) _⟩

/-- Settles O13: a conditional branch whose test is the sign of rA. -/
theorem bltBranchesOnNegative : Obligations.BltBranchesOnNegative := by
  intro rA rB s inst hex
  exact ⟨_, exec_blt_eq rA rB s, branchIf_decides hex (isNegative_iff s rA) _⟩

/-! ### The linking jump -/

/-- A jump behind the write of one register changes only control and that register. -/
theorem WritesOnly.sameButControl_jumpTo {rD : RegIdx} {v : Word} {s t : State} (h : WritesOnly rD v s t) (target : Word) :
    SameButControl [rD] s (t.jumpTo target) := by
  obtain ⟨-, hregs, -, -, hexc, himm, hmem, hpipe, hbus, hsys⟩ := h
  exact ⟨hregs, hexc, himm, hmem, hpipe, hbus, hsys⟩

/-- A jump leaves the register written before it to be read back. -/
theorem WritesOnly.readsBack_jumpTo {rD : RegIdx} {v : Word} {s t : State} (h : WritesOnly rD v s t) (target : Word) :
    ReadsBack rD v s (t.jumpTo target) := by
  obtain ⟨hread, -⟩ := h
  exact hread

/-- The effect of BRALID is the write of the link register and of MSR, then a jump; the status before the jump does not matter
(42_branch.md R182). -/
theorem exec_bralid_eq (rD : RegIdx) (imm16 : BitVec 16) (s : State) :
    exec (.bralid rD imm16) s =
      .next (({ s.writeReg rD s.ipc with msr := s.msrWithDs }.withStatus .normal).jumpTo (s.imm32 imm16)) := rfl

/-- Settles O14: the link is written as every instruction with one result writes it, beside MSR, and the jump leaves both alone. -/
theorem bralidLinksAndJumps : Obligations.BralidLinksAndJumps := by
  intro rD imm16 s inst hex
  have hlinks := writesOnly_writeReg s rD s.ipc s.msrWithDs
  exact ⟨_, exec_bralid_eq rD imm16 s, ipc_of_ex hex ▸ hlinks.readsBack_jumpTo _, hlinks.sameButControl_jumpTo _,
    State.jumpTo_pc .., State.jumpTo_status .., msrWithDs_getLsbD s⟩

end Sys2Proof.Machine
end

section
/-! SUPPORT. A half-word access on its completing call (43_load_store.md R190): the frame it leaves, the two bytes of the image it reads or
writes (20_memory.md R61, R68, R69), the device register it stages (20_memory.md R71): O15, O18 and O19. -/

namespace Sys2Proof.Machine

/-! ### The completing call -/

/-- A completing load writes to rD what the bus has read (43_load_store.md R190). -/
theorem exec_load_of_read {i : Instr} {s u : State} {rD : RegIdx} {ea v : Word} (haccess : AccessOf false i s rD ea)
    (hcount : AccessCount false s rD ea 0) (heven : ea.toNat % 2 = 0)
    (hread : ({ s with pend := none } : State).memRead .half ea = .next (v, u)) :
    exec i s = .next ((u.writeReg rD v).withStatus .normal) := by
  have hbus : s.bus .read .half ea 0 = .next (.ready v, u) := by
    rw [bus_read_of_done (misaligned_half.mpr heven) hcount, hread, andThen_of_next]
  exact (exec_access haccess).trans (congrArg (andThen · _) hbus)

/-- A completing store leaves what the bus has written (43_load_store.md R190). -/
theorem exec_store_of_write {i : Instr} {s u : State} {rD : RegIdx} {ea : Word} (haccess : AccessOf true i s rD ea)
    (hcount : AccessCount true s rD ea 0) (heven : ea.toNat % 2 = 0)
    (hwrite : ({ s with pend := none } : State).memWrite .half ea (s.storeDatum rD) = .next u) :
    exec i s = .next (u.withStatus .normal) := by
  have hbus : s.bus .write .half ea (s.storeDatum rD) = .next (.ready 0, u) := by
    rw [bus_write_of_done (misaligned_half.mpr heven) hcount, hwrite, andThen_of_next]
  exact (exec_access haccess).trans (congrArg (andThen · _) hbus)

/-- The frame of a completed load, whatever RX_SOURCE supplied. -/
theorem loadDone_writeReg (s : State) (rD : RegIdx) (v : Word) (bytes : List Byte) (pulled : Nat) :
    LoadDone rD v s
      ((({ s with pend := none, rxBytes := bytes, rxPulled := pulled } : State).writeReg rD v).withStatus .normal) := by
  refine ⟨?_, ⟨fun q hq => ?_, rfl, rfl, rfl, rfl, ⟨rfl, rfl⟩, ⟨rfl, rfl, rfl, rfl, rfl⟩, ⟨rfl, rfl, rfl, rfl, rfl, rfl⟩⟩,
    fun _ => rfl, rfl, rfl, rfl, rfl, rfl⟩
  · exact State.reg_writeReg_self { s with pend := none, rxBytes := bytes, rxPulled := pulled } rD v
  · exact (State.reg_writeReg_ne { s with pend := none, rxBytes := bytes, rxPulled := pulled } v (by simpa using hq)).trans
      (State.reg_congr rfl rfl q)

/-- The frame of a completed store, whatever it wrote to the image or to the device registers. -/
theorem storeDone_update (s : State) (m : Memory) (ds : List DeviceState) :
    StoreDone s ({ s with pend := none, mem := m, devices := ds, status := .normal } : State) :=
  ⟨sameButAccess_update s s.ear s.esr m none ds s.rxBytes s.rxPulled .normal, rfl, rfl, rfl, rfl, rfl, rfl⟩

/-! ### The half-word of the image -/

/-- Two bytes joined, the first the more significant. -/
theorem joined_half (b c : Byte) : (((0 : Word) <<< 8 ||| b.setWidth 32) <<< 8) ||| c.setWidth 32 = (b ++ c).setWidth 32 := by
  refine BitVec.eq_of_getLsbD_eq fun i hi => ?_
  simp only [BitVec.getLsbD_or, BitVec.getLsbD_shiftLeft, BitVec.getLsbD_setWidth, BitVec.getLsbD_append, hi]
  by_cases hlow : i < 8
  · simp [hlow]
  · simp [hlow, show i - 8 < 32 by omega, BitVec.getLsbD_of_ge c i (by omega)]

/-- A half-word load whose two bytes are there joins them in the byte order (20_memory.md R61, R68). -/
theorem Memory.load_half {m : Memory} {a : Word} {b0 b1 : Byte} (h0 : m.read a.toNat = some b0) (h1 : m.read (a.toNat + 1) = some b1)
    (big : Bool) : m.load big .half a = some (if big then (b0 ++ b1).setWidth 32 else (b1 ++ b0).setWidth 32) := by
  cases big <;> simp only [Memory.load, laneAddrs, Memory.join, h0, h1, Bool.false_eq_true, if_true, if_false, joined_half]

/-- A read of the image that finds its bytes answers their value and changes nothing (20_memory.md R68). -/
theorem memRead_of_load {s : State} {n : Width} {a v : Word} (himage : targetOf s.cfg a = .image)
    (hload : s.mem.load s.cfg.bigEndian n a = some v) : s.memRead n a = .next (v, s) := by
  simp only [State.memRead, himage, hload]

/-- Settles O15: the completing read loads the image, and joins the two bytes that are there. -/
theorem loadReadsImageHalf : Obligations.LoadReadsImageHalf := by
  intro i s rD ea b0 b1 haccess hcount heven himage h0 h1
  have hread := memRead_of_load (s := { s with pend := none }) himage (Memory.load_half h0 h1 _)
  exact ⟨_, exec_load_of_read haccess hcount heven hread, loadDone_writeReg s rD _ s.rxBytes s.rxPulled, rfl, rfl⟩

/-- The datum of a half-word store is the low half of rD (43_load_store.md R190). -/
theorem storeDatum_eq (s : State) (rD : RegIdx) : s.storeDatum rD = lowBits 16 (s.reg rD) :=
  and_mask .half (s.reg rD)

/-- A byte of the low half of a word. -/
theorem byte_of_low_half (v : Word) {k : Nat} (hk : k ≤ 8) : (lowBits 16 v >>> k).setWidth 8 = v.extractLsb' k 8 := by
  refine BitVec.eq_of_getLsbD_eq fun i hi => ?_
  simp [getLsbD_lowBits, hi, show k + i < 16 by omega]

/-- The two bytes of a stored half-word, in the byte order (20_memory.md R61, R69). -/
theorem read_store_half (m : Memory) (big : Bool) (ea v : Word) :
    (m.store big .half ea (lowBits 16 v)).read ea.toNat = some (if big then v.extractLsb' 8 8 else v.extractLsb' 0 8) ∧
      (m.store big .half ea (lowBits 16 v)).read (ea.toNat + 1) = some (if big then v.extractLsb' 0 8 else v.extractLsb' 8 8) := by
  have hupper : (lowBits 16 v >>> 8).setWidth 8 = v.extractLsb' 8 8 := byte_of_low_half v (by decide)
  have hlower : (lowBits 16 v >>> 0).setWidth 8 = v.extractLsb' 0 8 := byte_of_low_half v (by decide)
  have hholds := Memory.holds_spread (laneAddrs_nodup big .half ea.toNat) m (lowBits 16 v)
  cases big with
  | true =>
    obtain ⟨hfirst, hsecond, -⟩ := hholds
    exact ⟨hfirst.trans (congrArg some hupper), hsecond.trans (congrArg some hlower)⟩
  | false =>
    obtain ⟨hsecond, hfirst, -⟩ := hholds
    exact ⟨hfirst.trans (congrArg some hlower), hsecond.trans (congrArg some hupper)⟩

/-- Settles O18: the completing write stores the two bytes of the datum in the image, and no other byte is in its lane. -/
theorem storeWritesImageHalf : Obligations.StoreWritesImageHalf := by
  intro i s rD ea haccess hcount heven himage
  have hwrite : ({ s with pend := none } : State).memWrite .half ea (s.storeDatum rD) =
      .next { s with pend := none, mem := s.mem.store s.cfg.bigEndian .half ea (lowBits 16 (s.reg rD)) } := by
    simp only [State.memWrite, himage, storeDatum_eq]
  obtain ⟨hfirst, hsecond⟩ := read_store_half s.mem s.cfg.bigEndian ea (s.reg rD)
  exact ⟨_, exec_store_of_write haccess hcount heven hwrite, storeDone_update s _ s.devices, rfl, hfirst, hsecond,
    fun _ => read_store_half_outside s.mem s.cfg.bigEndian ea _⟩

/-! ### The value a store stages -/

/-- The mask of a width has the bits of its bytes. -/
theorem getLsbD_mask (n : Width) (i : Nat) : n.mask.getLsbD i = decide (i < 8 * n.bytes) := by
  have hmask : n.mask = lowBits (8 * n.bytes) (BitVec.allOnes 32) := by rw [← and_mask, BitVec.allOnes_and]
  have hbytes : n.bytes ≤ 4 := by cases n <;> decide
  rw [hmask, getLsbD_lowBits, BitVec.getLsbD_allOnes]
  by_cases hin : i < 8 * n.bytes
  · simp [hin, show i < 32 by omega]
  · simp [hin]

/-- A replaced lane shows the datum in the lane and the old word beside it (20_memory.md R71). -/
theorem getLsbD_withLane (big : Bool) (n : Width) (a v d : Word) {i : Nat} (hi : i < 32) :
    (withLane big n a v d).getLsbD i =
      if laneShift big n a ≤ i ∧ i < laneShift big n a + 8 * n.bytes then d.getLsbD (i - laneShift big n a) else v.getLsbD i := by
  simp only [withLane, BitVec.getLsbD_or, BitVec.getLsbD_and, BitVec.getLsbD_not, BitVec.getLsbD_shiftLeft, getLsbD_mask, hi]
  by_cases hbelow : i < laneShift big n a
  · simp [hbelow, show ¬ laneShift big n a ≤ i by omega]
  · by_cases hin : i - laneShift big n a < 8 * n.bytes
    · simp [hbelow, hin, show laneShift big n a ≤ i by omega, show i < laneShift big n a + 8 * n.bytes by omega]
    · simp [hbelow, hin, show ¬ i < laneShift big n a + 8 * n.bytes by omega]

/-- The half of a register value an even address selects: the upper one at the word's address when the block is big-endian and behind it
when it is not (20_memory.md R61). -/
theorem laneShift_half {big : Bool} {ea : Word} (heven : ea.toNat % 2 = 0) :
    laneShift big .half ea = if big = decide (ea.toNat % 4 = 0) then 16 else 0 := by
  obtain h | h : ea.toNat % 4 = 0 ∨ ea.toNat % 4 = 2 := by omega
  all_goals cases big <;> simp [laneShift, Width.bytes, h]

/-- Bit `i` of two half-words joined. -/
theorem getLsbD_joined_halves (u l : Half) (i : Nat) :
    (u ++ l : Word).getLsbD i = if i < 16 then l.getLsbD i else u.getLsbD (i - 16) :=
  BitVec.getLsbD_append

/-- The value a half-word store stages (20_memory.md R71). -/
theorem withLane_half {big : Bool} {ea : Word} (heven : ea.toNat % 2 = 0) (v d : Word) :
    withLane big .half ea v (lowBits 16 d) = withHalfAt big ea v (d.extractLsb' 0 16) := by
  refine BitVec.eq_of_getLsbD_eq fun i hi => ?_
  rw [getLsbD_withLane big .half ea v _ hi, laneShift_half heven, withHalfAt]
  split <;> rw [getLsbD_joined_halves]
  · by_cases hlow : i < 16
    · simp [hlow, show ¬ 16 ≤ i by omega]
    · simp [getLsbD_lowBits, Width.bytes, hlow, hi, show 16 ≤ i by omega, show i - 16 < 16 by omega]
  · by_cases hlow : i < 16
    · simp [getLsbD_lowBits, Width.bytes, hlow]
    · simp [Width.bytes, hlow, show 16 + (i - 16) = i by omega, show i - 16 < 16 by omega]

/-! ### `put` on a register of a device -/

/-- A store to STATUS or RX is discarded (60_exceptions.md R267, R268). -/
theorem DeviceState.putReg_discarded {n : RegName} (h : n = .status ∨ n = .rx) (d : DeviceState) (v : Word) : d.putReg n v = d := by
  cases d <;> rcases h with rfl | rfl <;> rfl

/-- A store to any other register is a `put` on it (60_exceptions.md R241). -/
theorem DeviceState.reg?_putReg_self {n : RegName} (h : ¬ (n = .status ∨ n = .rx)) (d : DeviceState) (v : Word) :
    (d.putReg n v).reg? n = (d.reg? n).map (DevReg.put · v) := by
  cases n with
  | status | rx => simp at h
  | tcsr0 | tlr0 | tcr0 | tcsr1 | tlr1 | tcr1 | ctrl | tx => cases d <;> rfl

/-- A store leaves the device's other registers alone. -/
theorem DeviceState.reg?_putReg_ne {n m : RegName} (h : m ≠ n) (d : DeviceState) (v : Word) : (d.putReg n v).reg? m = d.reg? m := by
  cases d with
  | timer t => cases n <;> cases m <;> trivial
  | byteStream b => cases n <;> cases m <;> trivial

/-- A store leaves everything a device holds beside its registers alone: it never decodes (60_exceptions.md R241). -/
theorem DeviceState.sameDecoded_putReg (d : DeviceState) (n : RegName) (v : Word) : d.SameDecoded (d.putReg n v) := by
  cases d with
  | timer t => cases n <;> exact ⟨rfl, rfl, rfl⟩
  | byteStream b => cases n <;> exact ⟨rfl, rfl⟩

theorem DeviceState.sameDecoded_refl (d : DeviceState) : d.SameDecoded d := by
  cases d with
  | timer t => exact ⟨rfl, rfl, rfl⟩
  | byteStream b => exact ⟨rfl, rfl⟩

/-- A change of one element that stands in a reflexive relation to it relates the lists. -/
theorem forall₂_modify {α : Type} {R : α → α → Prop} (hrefl : ∀ x, R x x) {f : α → α} (hf : ∀ x, R x (f x))
    (l : List α) (n : Nat) : List.Forall₂ R l (l.modify n f) := by
  refine List.forall₂_iff_get.mpr ⟨(List.length_modify ..).symm, fun i _ _ => ?_⟩
  simp only [List.get_eq_getElem, List.getElem_modify]
  split
  · exact hf _
  · exact hrefl _

/-! ### A store to a device register -/

/-- The state a completing store of `v` to a device register leaves (60_exceptions.md R241). -/
def State.staged (s : State) (r : RegRef) (v : Word) : State :=
  { s with pend := none, devices := s.devices.modify r.dev (fun d => d.putReg r.name v), status := .normal }

/-- A completing store to a device register stages its committed value with the addressed half-word replaced (20_memory.md R71). -/
theorem exec_store_of_register {i : Instr} {s : State} {rD : RegIdx} {ea : Word} {r : RegRef} {reg : DevReg}
    (haccess : AccessOf true i s rD ea) (hcount : AccessCount true s rD ea 0) (heven : ea.toNat % 2 = 0)
    (htarget : targetOf s.cfg ea = .register r) (hreg : s.registerOf r = some reg) :
    exec i s = .next (s.staged r (withHalfAt s.cfg.bigEndian ea reg.committed ((s.reg rD).extractLsb' 0 16))) := by
  rw [State.registerOf] at hreg
  refine exec_store_of_write haccess hcount heven (u := { s with pend := none, devices := s.devices.modify r.dev _ }) ?_
  simp only [State.memWrite, htarget, State.writeRegister, hreg, storeDatum_eq, withLane_half heven, DevReg.get]

/-- A store to STATUS or RX changes no device (60_exceptions.md R267, R268). -/
theorem staged_devices_of_discarded {r : RegRef} (h : r.name = .status ∨ r.name = .rx) (s : State) (v : Word) :
    (s.staged r v).devices = s.devices := by
  have hput : (fun d : DeviceState => d.putReg r.name v) = id := funext fun d => d.putReg_discarded h v
  exact (congrArg (s.devices.modify r.dev ·) hput).trans (List.modify_id ..)

/-- The stored register holds the value as pending and is dirty; what it committed stands (60_exceptions.md R241). -/
theorem staged_registerOf_self {s : State} {r : RegRef} {reg : DevReg} (hname : ¬ (r.name = .status ∨ r.name = .rx))
    (hreg : s.registerOf r = some reg) (v : Word) : (s.staged r v).registerOf r = some (reg.put v) := by
  obtain ⟨d, hd, hdreg⟩ := Option.bind_eq_some_iff.mp hreg
  simp [State.registerOf, State.staged, hd, DeviceState.reg?_putReg_self hname, hdreg]

/-- Every other register of every device is as before. -/
theorem staged_registerOf_ne {q r : RegRef} (h : q.dev ≠ r.dev ∨ q.name ≠ r.name) (s : State) (v : Word) :
    (s.staged r v).registerOf q = s.registerOf q := by
  by_cases hdev : r.dev = q.dev
  · have hname : q.name ≠ r.name := h.resolve_left (fun hne => hne hdev.symm)
    simp only [State.registerOf, State.staged, hdev, List.getElem?_modify, if_true]
    cases s.devices[q.dev]? with
    | none => rfl
    | some d => exact d.reg?_putReg_ne hname v
  · simp [State.registerOf, State.staged, hdev]

/-- Settles O19: the completing write is a `put` on the one register, which STATUS and RX discard and no device decodes. -/
theorem storeStagesDeviceRegister : Obligations.StoreStagesDeviceRegister := by
  intro i s rD ea r reg haccess hcount heven htarget hreg
  refine ⟨_, exec_store_of_register haccess hcount heven htarget hreg, storeDone_update s s.mem _, fun _ => rfl, ?_⟩
  split
  · exact staged_devices_of_discarded ‹_› s _
  · exact ⟨staged_registerOf_self ‹_› hreg _,
      forall₂_modify DeviceState.sameDecoded_refl (fun d => d.sameDecoded_putReg r.name _) s.devices r.dev,
      fun q hq => staged_registerOf_ne hq s _⟩

end Sys2Proof.Machine
end

section
/-! SUPPORT. The effects of PCMPBF, PCMPEQ and SEXT8 (45_compare_extend.md R210 to R212): O26, O27 and O28. -/

namespace Sys2Proof.Machine

/-! ### The effects -/

/-- The effect of PCMPBF is one register write and the status (45_compare_extend.md R210). -/
theorem exec_pcmpbf_eq (rD rA rB : RegIdx) (s : State) :
    exec (.pcmpbf rD rA rB) s = .next ((s.writeReg rD (firstEqualLane (s.reg rA) (s.reg rB))).withStatus .normal) := rfl

/-- The effect of PCMPEQ is one register write and the status (45_compare_extend.md R211). -/
theorem exec_pcmpeq_eq (rD rA rB : RegIdx) (s : State) :
    exec (.pcmpeq rD rA rB) s = .next ((s.writeReg rD (equalFlag (s.reg rA) (s.reg rB))).withStatus .normal) := rfl

/-- The effect of SEXT8 is one register write and the status (45_compare_extend.md R212). -/
theorem exec_sext8_eq (rD rA : RegIdx) (s : State) :
    exec (.sext8 rD rA) s = .next ((s.writeReg rD (signExtendByte (s.reg rA))).withStatus .normal) := rfl

/-! ### The search for an equal byte lane -/

/-- `a` and `b` agree in byte lane `k`, counted from 1 at the most significant byte (45_compare_extend.md R210). -/
abbrev AgreeInLane (a b : Word) (k : Nat) : Prop := a.extractLsb' (32 - 8 * k) 8 = b.extractLsb' (32 - 8 * k) 8

/-- `n` is what a search from lane `j` on finds: a lane of agreement with none before it, or 0 when no lane agrees. -/
structure SearchFinds (a b : Word) (j n : Nat) : Prop where
  le_four : n ≤ 4
  differ : ∀ k, j ≤ k → k ≤ 4 → n = 0 ∨ k < n → ¬ AgreeInLane a b k
  agree : n ≠ 0 → AgreeInLane a b n

/-- Behind the last lane the search finds nothing. -/
theorem searchFinds_behind_last (a b : Word) : SearchFinds a b 5 0 :=
  ⟨by decide, fun _ _ _ => by omega, absurd rfl⟩

/-- A search ends in a lane of agreement and goes on behind a lane of difference. -/
theorem SearchFinds.from_lane {a b v : Word} {j : Nat} (hrest : SearchFinds a b (j + 1) v.toNat) (place : Word)
    (hplace : place.toNat = j) (hpos : 1 ≤ j) (hle : j ≤ 4) :
    SearchFinds a b j (if AgreeInLane a b j then place else v).toNat := by
  split
  next hlane =>
    rw [hplace]
    exact ⟨hle, fun _ _ _ => by omega, fun _ => hlane⟩
  next hlane =>
    refine ⟨hrest.le_four, fun k hk hk4 hbefore => ?_, hrest.agree⟩
    obtain rfl | hlt := hk.eq_or_lt
    · exact hlane
    · exact hrest.differ k hlt hk4 hbefore

/-- The value of PCMPBF is what a search of all four lanes finds, from the most significant one on (45_compare_extend.md R210). -/
theorem firstEqualLane_searchFinds (a b : Word) : SearchFinds a b 1 (firstEqualLane a b).toNat := by
  have h4 := (searchFinds_behind_last a b).from_lane (v := 0) 4 rfl (by decide) (by decide)
  have h3 := h4.from_lane 3 rfl (by decide) (by decide)
  have h2 := h3.from_lane 2 rfl (by decide) (by decide)
  exact h2.from_lane 1 rfl (by decide) (by decide)

/-- Settles O26: the written value is what a search of the four lanes finds. -/
theorem pcmpbfFindsFirstEqualByte : Obligations.PcmpbfFindsFirstEqualByte := by
  intro rD rA rB s
  have hfinds := firstEqualLane_searchFinds (s.reg rA) (s.reg rB)
  refine ⟨_, _, exec_pcmpbf_eq rD rA rB s, writesOnly_writeReg s rD _ s.msr, rfl, hfinds.le_four, fun k hk hk4 => ?_⟩
  refine ⟨hfinds.differ k hk hk4, fun hfound => ?_⟩
  have hagree := hfinds.agree (by omega)
  rwa [hfound] at hagree

/-! ### The sign-extended byte -/

/-- A sign-extended byte repeats its bit 7 above itself (45_compare_extend.md R212). -/
theorem getLsbD_signExtendByte (v : Word) {i : Nat} (hi : i < 32) :
    (signExtendByte v).getLsbD i = v.getLsbD (if i < 8 then i else 7) := by
  have hsign : (v.extractLsb' 0 8).msb = v.getLsbD 7 := by simp [BitVec.msb_eq_getLsbD_last]
  rw [signExtendByte, BitVec.getLsbD_signExtend, hsign]
  by_cases hlow : i < 8
  · simp [hlow, hi]
  · simp [hlow, hi]

/-- Settles O28: the sign-extended byte is written, read bit by bit. -/
theorem sext8ReplicatesBitSeven : Obligations.Sext8ReplicatesBitSeven := by
  intro rD rA s
  exact ⟨_, _, exec_sext8_eq rD rA s, writesOnly_writeReg s rD _ s.msr, rfl, fun _ hb => getLsbD_signExtendByte (s.reg rA) hb⟩

/-! ### The equality flag -/

/-- Settles O27: the flag is written as every instruction with one result writes it, and MSR is left alone. -/
theorem pcmpeqWritesEquality : Obligations.PcmpeqWritesEquality := by
  intro rD rA rB s
  exact ⟨_, exec_pcmpeq_eq rD rA rB s, writesOnly_writeReg s rD _ s.msr, rfl⟩

end Sys2Proof.Machine
end

section
/-! SUPPORT. The Device Register protocol and the Timer/Counter's tick (60_exceptions.md R240 to R247, R256 to R259): what a commit of a
control register makes of it, what the counting half and the other register's ENALL force into it, and both channels after a tick:
O34, O35 and O38. -/

namespace Sys2Proof.Machine

/-! ### `put` and `update` of a plain register -/

/-- A clean register has nothing to commit (60_exceptions.md R242). -/
theorem DevReg.update_of_clean {r : DevReg} (h : r.dirty = false) : r.update = r := by
  simp [DevReg.update, h]

/-- A commit shows the staged value (60_exceptions.md R240, R242). -/
@[simp] theorem DevReg.get_update_put (r : DevReg) (v : Word) : (r.put v).update.get = v := rfl

/-- A second `put` on a register wins (60_exceptions.md R241). -/
theorem DeviceState.putReg_putReg (d : DeviceState) (n : RegName) (v w : Word) : (d.putReg n v).putReg n w = d.putReg n w := by
  cases d with
  | timer t => cases n <;> rfl
  | byteStream b => cases n <;> rfl

/-- A timer's flags are decoded at a commit, never at a `put` (60_exceptions.md R241). -/
theorem Timer.putReg_flags (t : Timer) (n : RegName) (v : Word) :
    (t.putReg n v).ch0.tcsr.flags = t.ch0.tcsr.flags ∧ (t.putReg n v).ch1.tcsr.flags = t.ch1.tcsr.flags :=
  have ⟨_, hch0, hch1⟩ := (DeviceState.timer t).sameDecoded_putReg n v
  ⟨hch0, hch1⟩

/-- Settles O34: a `put` is `DevReg.put` on the one register and decodes nothing, and an `update` commits what it staged. -/
theorem putStagesUpdateCommits : Obligations.PutStagesUpdateCommits := by
  refine ⟨fun d n v reg hreg hstatus hrx => ?stages, fun d v => ?discards, DeviceState.sameDecoded_putReg, Timer.putReg_flags,
    fun r v => ?commits⟩
  case stages =>
    obtain ⟨hirq, -⟩ := d.sameDecoded_putReg n v
    refine ⟨?_, fun q hq => d.reg?_putReg_ne hq v, hirq, d.putReg_putReg n v⟩
    rw [d.reg?_putReg_self (by simp [hstatus, hrx]) v, hreg]
    rfl
  case discards => exact ⟨d.putReg_discarded (.inr rfl) v, d.putReg_discarded (.inl rfl) v⟩
  case commits =>
    have hclean : (r.put v).update.dirty = false := DevReg.update_dirty _
    exact ⟨r.get_put v, r.get_update_put v, hclean, DevReg.update_of_clean hclean, DevReg.update_of_clean⟩

/-! ### The commit of a control register -/

/-- Write-1-to-clear of the interrupt-pending flag (60_exceptions.md R243, R244). -/
theorem decodedTint_eq (v : Word) (tint : Bool) : decodedTint v tint = (!v.getLsbD 8 && tint) := by
  rw [decodedTint, tintBit]
  cases v.getLsbD 8 <;> rfl

/-- The nine flags by their bit positions (60_exceptions.md R243, R255). -/
theorem decodedFlags_eq (v : Word) (tint : Bool) :
    decodedFlags v tint = ⟨v.getLsbD 0, v.getLsbD 1, v.getLsbD 4, v.getLsbD 5, v.getLsbD 6, v.getLsbD 7 || v.getLsbD 10,
      !v.getLsbD 8 && tint, v.getLsbD 9, v.getLsbD 10⟩ := by
  rw [← decodedTint_eq]
  rfl

/-- The committed bits: the pending flag in bit 8, the enable in bit 7, every other bit as written (60_exceptions.md R243). -/
theorem getLsbD_committedTcsr (v : Word) (tint : Bool) (b : Nat) :
    (committedTcsr v tint).getLsbD b =
      if b = 8 then !v.getLsbD 8 && tint else if b = 7 then v.getLsbD 7 || v.getLsbD 10 else v.getLsbD b := by
  rw [← decodedTint_eq]
  exact committedTcsr_bit v tint b

/-- What `update` makes of the register it is called on; a clean one stays (60_exceptions.md R242, R243). -/
def Tcsr.settled (r : Tcsr) : Tcsr :=
  if r.reg.dirty then ⟨⟨committedTcsr r.reg.pending r.flags.tint, r.reg.pending, false⟩, decodedFlags r.reg.pending r.flags.tint⟩
  else r

/-- What a global enable makes of the other register, if there is one (60_exceptions.md R246). -/
def Tcsr.reachedBy (q : Tcsr) (enabled : Bool) : Tcsr := if enabled then (q.forceEnall true).forceEnt true else q

/-- The register commits a set ENALL (60_exceptions.md R246). -/
def Tcsr.enablesAll (r : Tcsr) : Bool := r.reg.dirty && r.reg.pending.getLsbD 10

/-- An `update` commits the register and lets its ENALL reach the sibling (60_exceptions.md R242, R246). -/
theorem Tcsr.update_eq (r q : Tcsr) : r.update q = (r.settled, q.reachedBy r.enablesAll) := by
  unfold Tcsr.update Tcsr.settled Tcsr.enablesAll Tcsr.reachedBy
  cases r.reg.dirty <;> rfl

/-- A committed register is clean (60_exceptions.md R242). -/
theorem Tcsr.settled_dirty (r : Tcsr) : r.settled.reg.dirty = false := by
  unfold Tcsr.settled
  split
  · rfl
  · simp_all

/-- The flags of a committed register (60_exceptions.md R243, R244). -/
theorem Tcsr.settled_flags (r : Tcsr) :
    r.settled.flags = if r.reg.dirty then decodedFlags r.reg.pending r.flags.tint else r.flags :=
  apply_ite Tcsr.flags ..

/-- The value of a committed register (60_exceptions.md R243). -/
theorem Tcsr.settled_committed (r : Tcsr) :
    r.settled.reg.committed = if r.reg.dirty then committedTcsr r.reg.pending r.flags.tint else r.reg.committed :=
  apply_ite (fun q : Tcsr => q.reg.committed) ..

/-- Settles O35: the commit of a staged value, whose flags and bits are those of the decoding. -/
theorem tcsrCommitDecodesFlags : Obligations.TcsrCommitDecodesFlags := by
  intro r q v u
  have hu : u = ⟨⟨committedTcsr v r.flags.tint, v, false⟩, decodedFlags v r.flags.tint⟩ := rfl
  rw [hu]
  refine ⟨rfl, decodedFlags_eq v r.flags.tint, fun b h7 h8 => ?other, ?enable, ?pending⟩
  case other => rw [getLsbD_committedTcsr, if_neg h8, if_neg h7]
  case enable => exact getLsbD_committedTcsr v r.flags.tint 7
  case pending => exact getLsbD_committedTcsr v r.flags.tint 8

/-! ### What the other register's ENALL forces -/

/-- A global enable stages nothing and leaves what is staged (60_exceptions.md R245, R246). -/
theorem Tcsr.reachedBy_staged (q : Tcsr) (enabled : Bool) :
    (q.reachedBy enabled).reg.pending = q.reg.pending ∧ (q.reachedBy enabled).reg.dirty = q.reg.dirty ∧
      (q.reachedBy enabled).flags.tint = q.flags.tint := by
  cases enabled <;> exact ⟨rfl, rfl, rfl⟩

/-- A global enable sets the two enable flags (60_exceptions.md R246). -/
theorem Tcsr.reachedBy_flags (q : Tcsr) (enabled : Bool) :
    (q.reachedBy enabled).flags = if enabled then { q.flags with ent := true, enall := true } else q.flags := by
  cases enabled <;> rfl

/-- A global enable sets bits 7 and 10 (60_exceptions.md R245, R246). -/
theorem Tcsr.getLsbD_reachedBy (q : Tcsr) (enabled : Bool) (b : Nat) :
    (q.reachedBy enabled).reg.committed.getLsbD b = (q.reg.committed.getLsbD b || (enabled && (b == 7 || b == 10))) := by
  cases enabled with
  | false => simp [Tcsr.reachedBy]
  | true =>
    obtain ⟨-, -, -, hent⟩ := (q.forceEnall true).forceEnt_spec true
    obtain ⟨-, -, -, henall⟩ := q.forceEnall_spec true
    have hbit := hent b
    rw [henall, entBit, enallBit] at hbit
    refine hbit.trans ?_
    by_cases h7 : b = 7
    · simp [h7]
    · by_cases h10 : b = 10 <;> simp [h7, h10]

/-- A global enable that reaches a register before its own commit is overwritten by it (60_exceptions.md R246, R259). -/
theorem Tcsr.settled_reachedBy (q : Tcsr) (enabled : Bool) :
    (q.reachedBy enabled).settled = q.settled.reachedBy (!q.reg.dirty && enabled) := by
  obtain ⟨hpending, hdirty, htint⟩ := q.reachedBy_staged enabled
  unfold Tcsr.settled
  rw [hpending, hdirty, htint]
  cases q.reg.dirty <;> rfl

/-- A global enable leaves what the register is about to commit. -/
theorem Tcsr.enablesAll_reachedBy (q : Tcsr) (enabled : Bool) : (q.reachedBy enabled).enablesAll = q.enablesAll := by
  obtain ⟨hpending, hdirty, -⟩ := q.reachedBy_staged enabled
  rw [Tcsr.enablesAll, hpending, hdirty, ← Tcsr.enablesAll]

/-! ### What an arrival at 0 forces -/

/-- The value a timer counts on from: its load register while LOAD is set, else its counter (60_exceptions.md R256). -/
def TimerChannel.start (ch : TimerChannel) : Word := if ch.tcsr.flags.load then ch.tlr.get else ch.tcr.get

/-- The timer counts to 0 in this tick; `pwm` says that both PWMA bits are set (60_exceptions.md R256, R257). -/
def TimerChannel.arrives (c : Config) (pwm : Bool) (ch : TimerChannel) : Bool :=
  !pwm && ch.counting c && ch.tcsr.flags.ent && (ch.start != 0) && (ch.start + ch.tcsr.flags.countBy == 0)

/-- The channel behind the counting half of the tick (60_exceptions.md R256). -/
def TimerChannel.counted (c : Config) (pwm : Bool) (ch : TimerChannel) : TimerChannel := if pwm then ch else ch.count c

/-- The interrupt-pending flag is forced where the count has arrived at 0 (60_exceptions.md R257). -/
def Tcsr.arrived (r : Tcsr) (arrives : Bool) : Tcsr := if arrives then r.forceTint true else r

/-- The counting half works on each channel by itself (60_exceptions.md R256). -/
theorem Timer.countBoth_eq (c : Config) (t : Timer) :
    t.countBoth c = { t with ch0 := t.ch0.counted c t.pwm, ch1 := t.ch1.counted c t.pwm } := by
  unfold Timer.countBoth TimerChannel.counted
  cases t.pwm <;> rfl

/-- The advance forces the pending flag on arrival at 0, not at a boundary it starts from (60_exceptions.md R257). -/
theorem TimerChannel.advance_snd (ch : TimerChannel) (v : Word) :
    (ch.advance v).2 = ((v != 0) && (v + ch.tcsr.flags.countBy == 0)) := by
  unfold TimerChannel.advance
  by_cases hzero : v = 0
  · simp [hzero]
  · simp only [if_neg hzero, bne, beq_eq_false_iff_ne.mpr hzero, Bool.not_false, Bool.true_and]
    rfl

/-- Counting leaves the load register (60_exceptions.md R256). -/
theorem TimerChannel.counted_tlr (c : Config) (pwm : Bool) (ch : TimerChannel) : (ch.counted c pwm).tlr = ch.tlr := by
  unfold TimerChannel.counted TimerChannel.count
  repeat' split
  all_goals rfl

/-- Counting forces the pending flag of a control register exactly on an arrival at 0 (60_exceptions.md R256, R257). -/
theorem TimerChannel.counted_tcsr (c : Config) (pwm : Bool) (ch : TimerChannel) :
    (ch.counted c pwm).tcsr = ch.tcsr.arrived (ch.arrives c pwm) := by
  have hadvance := ch.advance_snd ch.start
  unfold TimerChannel.counted TimerChannel.count TimerChannel.arrives
  cases pwm with
  | true => rfl
  | false =>
    cases ch.counting c with
    | false => rfl
    | true =>
      cases ch.tcsr.flags.ent with
      | true =>
        simp only [Bool.not_false, Bool.true_and, ← hadvance]
        rfl
      | false => cases ch.tcsr.flags.load <;> rfl

/-- An arrival leaves what is staged (60_exceptions.md R245). -/
theorem Tcsr.arrived_staged (r : Tcsr) (arrives : Bool) :
    (r.arrived arrives).reg.pending = r.reg.pending ∧ (r.arrived arrives).reg.dirty = r.reg.dirty := by
  cases arrives <;> exact ⟨rfl, rfl⟩

/-- An arrival sets the pending flag (60_exceptions.md R245, R257). -/
theorem Tcsr.arrived_flags (r : Tcsr) (arrives : Bool) :
    (r.arrived arrives).flags = { r.flags with tint := r.flags.tint || arrives } := by
  cases arrives <;> simp [Tcsr.arrived, Tcsr.forceTint]

/-- An arrival sets bit 8 (60_exceptions.md R245, R257). -/
theorem Tcsr.getLsbD_arrived (r : Tcsr) (arrives : Bool) (b : Nat) :
    (r.arrived arrives).reg.committed.getLsbD b = (r.reg.committed.getLsbD b || (b == 8 && arrives)) := by
  cases arrives with
  | false => simp [Tcsr.arrived]
  | true =>
    obtain ⟨-, -, -, hbit⟩ := r.forceTint_spec true
    refine (hbit b).trans ?_
    by_cases h8 : b = 8 <;> simp [tintBit, h8]

/-- An arrival leaves what the register is about to commit. -/
theorem Tcsr.enablesAll_arrived (r : Tcsr) (arrives : Bool) : (r.arrived arrives).enablesAll = r.enablesAll := by
  obtain ⟨hpending, hdirty⟩ := r.arrived_staged arrives
  rw [Tcsr.enablesAll, hpending, hdirty, ← Tcsr.enablesAll]

/-! ### The channels after a tick -/

/-- The channel after a tick in which the other register's ENALL has reached it, or not (60_exceptions.md R256, R259). -/
def TimerChannel.ticked (c : Config) (pwm reached : Bool) (ch : TimerChannel) : TimerChannel :=
  ⟨(ch.tcsr.arrived (ch.arrives c pwm)).settled.reachedBy reached, ch.tlr.update, (ch.counted c pwm).tcr.update⟩

/-- The six commits channel by channel: register 0 commits first, so an ENALL of register 1 reaches it always, and its own ENALL
reaches a register 1 that commits nothing itself (60_exceptions.md R246, R259). -/
theorem Timer.updateAll_eq (t : Timer) :
    t.updateAll = { t with
      ch0 := ⟨t.ch0.tcsr.settled.reachedBy t.ch1.tcsr.enablesAll, t.ch0.tlr.update, t.ch0.tcr.update⟩
      ch1 := ⟨t.ch1.tcsr.settled.reachedBy (!t.ch1.tcsr.reg.dirty && t.ch0.tcsr.enablesAll), t.ch1.tlr.update,
        t.ch1.tcr.update⟩ } := by
  simp only [Timer.updateAll, Tcsr.update_eq, Tcsr.settled_reachedBy, Tcsr.enablesAll_reachedBy]

/-- A tick is the counting half, the request, and the commits (60_exceptions.md R256). -/
theorem Timer.tick_eq (c : Config) (t : Timer) :
    t.tick c =
      ⟨t.ch0.ticked c t.pwm t.ch1.tcsr.enablesAll,
        t.ch1.ticked c t.pwm (!t.ch1.tcsr.reg.dirty && t.ch0.tcsr.enablesAll),
        (t.countBoth c).request⟩ := by
  obtain ⟨-, hdirty⟩ := t.ch1.tcsr.arrived_staged (t.ch1.arrives c t.pwm)
  simp only [Timer.tick, Timer.updateAll_eq, Timer.countBoth_eq, TimerChannel.counted_tcsr, TimerChannel.counted_tlr,
    Tcsr.enablesAll_arrived, hdirty, TimerChannel.ticked]

/-- The request a tick evaluates: behind the counting half, before the commits (60_exceptions.md R256, R258). -/
theorem Timer.request_countBoth (c : Config) (t : Timer) :
    (t.countBoth c).request =
      ((t.ch0.tcsr.flags.enit && (t.ch0.tcsr.flags.tint || t.ch0.arrives c t.pwm)) ||
        (t.ch1.tcsr.flags.enit && (t.ch1.tcsr.flags.tint || t.ch1.arrives c t.pwm))) := by
  simp only [Timer.request, Timer.countBoth_eq, TimerChannel.counted_tcsr, Tcsr.arrived_flags]

/-- The flags of a channel after a tick (60_exceptions.md R243 to R246, R257). -/
theorem TimerChannel.ticked_flags (c : Config) (pwm reached : Bool) (ch : TimerChannel) :
    let pending := ch.tcsr.flags.tint || ch.arrives c pwm
    let own := if ch.tcsr.reg.dirty then decodedFlags ch.tcsr.reg.pending pending else { ch.tcsr.flags with tint := pending }
    (ch.ticked c pwm reached).tcsr.flags = if reached then { own with ent := true, enall := true } else own := by
  obtain ⟨hpending, hdirty⟩ := ch.tcsr.arrived_staged (ch.arrives c pwm)
  simp only [TimerChannel.ticked, Tcsr.reachedBy_flags, Tcsr.settled_flags, hpending, hdirty, Tcsr.arrived_flags]

/-- The bits of a channel's control register after a tick (60_exceptions.md R243 to R246, R257). -/
theorem TimerChannel.getLsbD_ticked (c : Config) (pwm reached : Bool) (ch : TimerChannel) (b : Nat) :
    (ch.ticked c pwm reached).tcsr.reg.committed.getLsbD b =
      ((if ch.tcsr.reg.dirty then
          (committedTcsr ch.tcsr.reg.pending (ch.tcsr.flags.tint || ch.arrives c pwm)).getLsbD b
        else ch.tcsr.reg.committed.getLsbD b || (b == 8 && ch.arrives c pwm)) || (reached && (b == 7 || b == 10))) := by
  obtain ⟨hpending, hdirty⟩ := ch.tcsr.arrived_staged (ch.arrives c pwm)
  rw [TimerChannel.ticked, Tcsr.getLsbD_reachedBy, Tcsr.settled_committed, hpending, hdirty, Tcsr.arrived_flags]
  cases ch.tcsr.reg.dirty with
  | true => rfl
  | false => exact congrArg (· || _) (ch.tcsr.getLsbD_arrived _ b)

/-- A tick leaves no register of a channel dirty (60_exceptions.md R242). -/
theorem TimerChannel.ticked_clean (c : Config) (pwm reached : Bool) (ch : TimerChannel) :
    (ch.ticked c pwm reached).tlr.dirty = false ∧ (ch.ticked c pwm reached).tcr.dirty = false ∧
      (ch.ticked c pwm reached).tcsr.reg.dirty = false :=
  have ⟨_, hdirty, _⟩ := (ch.tcsr.arrived (ch.arrives c pwm)).settled.reachedBy_staged reached
  ⟨DevReg.update_dirty _, DevReg.update_dirty _, hdirty.trans (Tcsr.settled_dirty _)⟩

/-- Settles O38: the request before the commits, and each channel as its arrival, its own commit and the other's ENALL leave it. -/
theorem timerRequestFollowsPending : Obligations.TimerRequestFollowsPending := by
  intro c t arrives pending ownFlags ownBit reached0 reached1
  rw [Timer.tick_eq]
  refine ⟨t.request_countBoth c, fun ch ch' reached hmem => ?_⟩
  have hticked : ch' = ch.ticked c t.pwm reached := by
    simp only [List.mem_cons, Prod.mk.injEq, List.not_mem_nil, or_false] at hmem
    obtain ⟨rfl, rfl, rfl⟩ | ⟨rfl, rfl, rfl⟩ := hmem <;> rfl
  subst hticked
  obtain ⟨htlr, htcr, htcsr⟩ := ch.ticked_clean c t.pwm reached
  refine ⟨ch.tlr.update_committed, htlr, htcr, htcsr, ?flags, fun b => ?bits⟩
  case flags =>
    rw [TimerChannel.ticked_flags, decodedFlags_eq]
    rfl
  case bits =>
    rw [TimerChannel.getLsbD_ticked, getLsbD_committedTcsr]
    rfl

end Sys2Proof.Machine
end

section
/-! SUPPORT. A half-word load of a device register on its completing call (20_memory.md R61, R70; 60_exceptions.md R240, R267), and a
half-word access at an odd address (43_load_store.md R190; 60_exceptions.md R223): O16 and O21. -/

namespace Sys2Proof.Machine

/-! ### A load of a device register -/

/-- The lane of a half-word access at an even address, as an unsigned number (20_memory.md R61, R70). -/
theorem lane_half {big : Bool} {ea : Word} (heven : ea.toNat % 2 = 0) (v : Word) :
    lane big .half ea v = (halfAt big ea v).setWidth 32 := by
  rw [lane, and_mask, laneShift_half heven, halfAt, lowBits]
  split <;> rfl

/-- A completing half-word read of a device register takes the addressed half of what the register answers (20_memory.md R70). -/
theorem memRead_half_of_register {s u : State} {ea v : Word} {r : RegRef} (htarget : targetOf s.cfg ea = .register r)
    (heven : ea.toNat % 2 = 0) (hread : s.readRegister r = .next (v, u)) :
    s.memRead .half ea = .next ((halfAt s.cfg.bigEndian ea v).setWidth 32, u) := by
  simp only [State.memRead, htarget, hread, andThen_of_next, lane_half heven]

/-- A register other than RX answers its committed value, STATUS its constant, and nothing changes (60_exceptions.md R240, R267). -/
theorem readRegister_of_not_rx {s : State} {r : RegRef} {reg : DevReg} (hreg : s.registerOf r = some reg) (hrx : r.name ≠ .rx) :
    s.readRegister r = .next (if r.name = .status then s.cfg.bsStatus else reg.committed, s) := by
  rw [State.registerOf] at hreg
  rw [State.readRegister, hreg]
  cases hname : r.name with
  | rx => exact absurd hname hrx
  | status | tcsr0 | tlr0 | tcr0 | tcsr1 | tlr1 | tcr1 | ctrl | tx => rfl

/-- Settles O16: the completing read takes the addressed half of the register's value, and the load writes it to rD. -/
theorem loadReadsDeviceRegister : Obligations.LoadReadsDeviceRegister := by
  intro i s rD ea r reg haccess hcount heven htarget hreg hrx
  have hread := readRegister_of_not_rx (s := { s with pend := none }) hreg hrx
  have hhalf := memRead_half_of_register (s := { s with pend := none }) htarget heven hread
  exact ⟨_, exec_load_of_read haccess hcount heven hhalf, loadDone_writeReg s rD _ s.rxBytes s.rxPulled, rfl, rfl⟩

/-! ### An access at an odd address -/

/-- An unaligned access records its address and cause, whatever the direction and addressing mode (60_exceptions.md R223). -/
theorem exec_access_of_odd {store : Bool} {i : Instr} {s : State} {rD : RegIdx} {ea : Word} (haccess : AccessOf store i s rD ea)
    (hodd : ea.toNat % 2 = 1) : exec i s = .next (s.raiseUnaligned ea rD store) := by
  have hmisaligned : misaligned .half ea = true := misaligned_iff.mpr (by simp [Width.bytes, hodd])
  rw [exec_access haccess, bus_of_misaligned hmisaligned]
  rfl

/-- The bits of ESR on an unaligned access: the cause below bit 5, the register from there, the direction in bit 10 (10_state.md
R25). -/
theorem getLsbD_esrUnaligned (c : Config) (rD : RegIdx) (store : Bool) (i : Nat) :
    (esrUnaligned c rD store).getLsbD i =
      if i < 5 then c.esrEcUnaligned.getLsbD i else if i < 10 then rD.getLsbD (i - 5) else (i == 10 && store) := by
  have hdirection : (if store then 1#32 <<< 10 else 0 : Word).getLsbD i = (i == 10 && store) := by
    cases store with
    | false => simp
    | true => exact (BitVec.getLsbD_twoPow 10 i).trans (by simp [Bool.beq_eq_decide_eq, eq_comm])
  rw [esrUnaligned, BitVec.getLsbD_or, BitVec.getLsbD_or, hdirection, BitVec.getLsbD_shiftLeft]
  simp only [BitVec.getLsbD_setWidth]
  by_cases hcause : i < 5
  · simp [hcause, show i < 32 by omega, show i ≠ 10 by omega]
  · have hnocause : c.esrEcUnaligned.getLsbD i = false := BitVec.getLsbD_of_ge _ i (by omega)
    by_cases hregister : i < 10
    · simp [hnocause, hcause, hregister, show i < 32 by omega, show i - 5 < 32 by omega, show i ≠ 10 by omega]
    · have hnoregister : rD.getLsbD (i - 5) = false := BitVec.getLsbD_of_ge _ _ (by omega)
      simp [hnocause, hcause, hregister, hnoregister]

/-- The four fields of ESR on an unaligned access: cause, register, direction, and zeros above (10_state.md R25). -/
theorem esrUnaligned_fields (c : Config) (rD : RegIdx) (store : Bool) :
    (esrUnaligned c rD store).extractLsb' 0 5 = c.esrEcUnaligned ∧ (esrUnaligned c rD store).extractLsb' 5 5 = rD ∧
      (esrUnaligned c rD store).getLsbD 10 = store ∧ (esrUnaligned c rD store).extractLsb' 11 21 = 0#21 := by
  refine ⟨BitVec.eq_of_getLsbD_eq fun i hi => ?_, BitVec.eq_of_getLsbD_eq fun i hi => ?_, ?_,
    BitVec.eq_of_getLsbD_eq fun i hi => ?_⟩
  · simp [getLsbD_esrUnaligned, hi]
  · simp [getLsbD_esrUnaligned, hi, show ¬ 5 + i < 5 by omega, show 5 + i < 10 by omega]
  · exact getLsbD_esrUnaligned c rD store 10
  · simp [getLsbD_esrUnaligned, show ¬ 11 + i < 5 by omega, show ¬ 11 + i < 10 by omega, show 11 + i ≠ 10 by omega]

/-- Settles O21: the bus call fails the alignment check before anything else, and the access records address and cause. -/
theorem oddAddressRaisesUnaligned : Obligations.OddAddressRaisesUnaligned := by
  intro store i s rD ea haccess hodd
  obtain ⟨hcause, hregister, hdirection, habove⟩ := esrUnaligned_fields s.cfg rD store
  exact ⟨_, exec_access_of_odd haccess hodd, rfl, rfl, hcause, hregister, hdirection, habove,
    sameButAccess_update s ea _ s.mem s.pend s.devices s.rxBytes s.rxPulled .memUnaligned, fun _ => rfl, rfl, rfl, rfl, rfl⟩

end Sys2Proof.Machine
end

section
/-! SUPPORT. The byte-stream device's transmit half (60_exceptions.md R269, R270): O39. -/

namespace Sys2Proof.Machine

/-- The low byte of a stored word is emitted one tick after the store's own (60_exceptions.md R269, R270). -/
theorem ByteStream.emitted_tick_of_dirty {b : ByteStream} (h : b.tx.dirty = true) :
    b.tick.emitted = some (b.tx.pending.extractLsb' 0 8) := by
  have hcommitted : b.tick.tx.get = b.tx.pending := by simp [ByteStream.tick, DevReg.get, DevReg.update_committed, h]
  have hvalid : b.tick.txValid = true := h
  rw [ByteStream.emitted, if_pos hvalid, hcommitted]
  rfl

/-- Nothing is left to transmit: neither a committed byte nor a staged one. -/
def ByteStream.quiet (b : ByteStream) : Prop := b.txValid = false ∧ b.tx.dirty = false

/-- A quiet device emits nothing (60_exceptions.md R270). -/
theorem ByteStream.emitted_of_quiet {b : ByteStream} (h : b.quiet) : b.emitted = none := by
  obtain ⟨hvalid, -⟩ := h
  simp [ByteStream.emitted, hvalid]

/-- With nothing staged the device is quiet behind its tick (60_exceptions.md R270). -/
theorem ByteStream.quiet_tick {b : ByteStream} (h : b.tx.dirty = false) : b.tick.quiet := ⟨h, DevReg.update_dirty _⟩

/-- A quiet device stays quiet as long as nothing is stored. -/
theorem ByteStream.quiet_iterate {b : ByteStream} (h : b.quiet) (n : Nat) : (ByteStream.tick^[n] b).quiet := by
  induction n generalizing b with
  | zero => exact h
  | succ n ih =>
    obtain ⟨-, hdirty⟩ := h
    exact ih (quiet_tick hdirty)

/-- Settles O39: the first tick commits and emits nothing new, the second emits, and behind it the device is quiet. -/
theorem transmitOnceNextCycle : Obligations.TransmitOnceNextCycle := by
  intro b v
  refine ⟨rfl, rfl, ByteStream.emitted_tick_of_dirty rfl, fun n => ?_⟩
  have hquiet : (b.putReg .tx v).tick.tick.quiet := ByteStream.quiet_tick (DevReg.update_dirty _)
  exact ByteStream.emitted_of_quiet (ByteStream.quiet_iterate hquiet n)

end Sys2Proof.Machine
end

section
/-! SUPPORT. The status codes (60_exceptions.md R220, R221, R225): no part of a cycle writes BREAKPOINT, and the run loop by the class of
the status (70_reset_and_hazards.md R324): O48 and O47. -/

namespace Sys2Proof.Machine

/-! ### BREAKPOINT -/

/-- No instruction's effect answers BREAKPOINT (60_exceptions.md R225). -/
theorem ExecLeaves.status_ne_breakpoint {i : Instr} {s t : State} (h : ExecLeaves i s t) : t.status ≠ .breakpoint := by
  cases h with
  | access store rD ea t accesses leaves => cases leaves <;> exact Status.noConfusion
  | writes | unknownSelector | notTaken | taken | prefixes | links | clears => exact Status.noConfusion

/-- No step of the execute slot answers BREAKPOINT (40_engine.md R131, R133 to R136; 60_exceptions.md R225). -/
theorem stepEx_status_ne_breakpoint {s u : State} (h : s.stepEx = .next u) : u.status ≠ .breakpoint := by
  rcases stepEx_next h with ⟨-, rfl⟩ | ⟨_, -, -, rfl⟩ | ⟨_, _, -, -, -, rfl⟩ | ⟨_, _, -, -, -, -, rfl⟩ |
    ⟨_, i, -, -, -, -, hexec⟩
  · exact Status.noConfusion
  · exact Status.noConfusion
  · exact Status.noConfusion
  · exact Status.noConfusion
  · exact (exec_leaves hexec).status_ne_breakpoint

/-- No step of the machine answers BREAKPOINT: neither a reset, an interrupt entry, nor the step of the execute slot does, and the
controller passes the status on (60_exceptions.md R225). -/
theorem step_status_ne_breakpoint {s t : State} (h : step s = .next t) : t.status ≠ .breakpoint := by
  cases hrst : s.rst with
  | true =>
    obtain ⟨-, ⟨-, rfl⟩ | ⟨hlow, -⟩⟩ := step_next h
    · exact Status.noConfusion
    · simp [hrst] at hlow
  | false =>
    rcases cycle_next hrst h with ⟨-, rfl⟩ | ⟨-, u, v, hslot, hsettle, rfl⟩
    · exact Status.noConfusion
    · rw [State.endCycle_status, settle_status hsettle]
      exact stepEx_status_ne_breakpoint hslot

/-- A status of the terminal class holds the pipeline (40_engine.md R141). -/
theorem settle_of_terminal {s : State} (h : s.status.terminal = true) : s.settle = .next s := by
  unfold State.settle
  cases hstatus : s.status with
  | normal | jump | stall | memAccess | memMapped => simp [hstatus, Status.terminal] at h
  | memUnaligned | illegal | breakpoint | stop => rfl

/-- Settles O48: nothing writes BREAKPOINT, and as a terminal status it would hold the pipeline. -/
theorem breakpointIsNeverProduced : Obligations.BreakpointIsNeverProduced :=
  ⟨fun _ _ => step_status_ne_breakpoint, rfl, fun s hstatus => settle_of_terminal (by rw [hstatus]; rfl)⟩

/-! ### The two classes -/

/-- The terminal class (60_exceptions.md R221). -/
theorem Status.terminal_iff (st : Status) : st.terminal = true ↔ st ∈ [Status.memUnaligned, .illegal, .breakpoint, .stop] := by
  cases st <;> decide

/-- The soft class (60_exceptions.md R221). -/
theorem Status.soft_iff (st : Status) :
    st.terminal = false ↔ st ∈ [Status.stall, .jump, .normal, .memAccess, .memMapped] := by
  cases st <;> decide

/-- The terminal codes are numbered from 5 (60_exceptions.md R220, R221). -/
theorem Status.terminal_iff_code (st : Status) : st.terminal = true ↔ 5 ≤ st.code.toNat := by
  cases st <;> decide

/-- The run loop stops behind a terminal status and goes on behind a soft one (70_reset_and_hazards.md R324). -/
theorem runToTerminal_succ {s t : State} (h : step s = .next t) (n : Nat) :
    runToTerminal (n + 1) s = if t.status.terminal then .next t else runToTerminal n t := by
  simp [runToTerminal, runUntil, h]

/-- A reset is valid in any state of a well-formed configuration (70_reset_and_hazards.md R300, R304). -/
theorem step_of_reset {s : State} (hwf : s.cfg.wf = true) (hrst : s.rst = true) : step s = .next s.resetOp := by
  rw [step, if_pos hwf, if_pos hrst]

/-- Settles O47: the two classes case by case, one round of the run loop, and the reset operation's NORMAL. -/
theorem terminalStatusesEndRuns : Obligations.TerminalStatusesEndRuns := by
  refine ⟨fun st => ⟨st.terminal_iff, st.soft_iff, st.terminal_iff_code⟩, fun s t n hstep => ?loop,
    fun s hwf hrst => ⟨s.resetOp, step_of_reset hwf hrst, rfl⟩⟩
  case loop => exact ⟨fun hterminal => by rw [runToTerminal_succ hstep, if_pos hterminal],
    fun hsoft => by rw [runToTerminal_succ hstep, if_neg (by simp [hsoft])]⟩

end Sys2Proof.Machine
end

section
/-! SUPPORT. The repeat of a terminal status (40_engine.md R141; 70_reset_and_hazards.md R325): the step that answered one has already
written all that the next step of the same instruction writes, so what it leaves is a fixed point of the step of the execute slot:
O45. -/

namespace Sys2Proof.Machine

/-! ### The effects that answer a terminal status -/

/-- The bus answers UNALIGNED wherever an access answers a terminal status (43_load_store.md R190). -/
theorem afterWait_terminal {s : State} {ea : Word} {rD : RegIdx} {store : Bool} {r : BusReply}
    (h : (s.afterWait ea rD store r).status.terminal = true) : r = .unaligned := by
  cases r with
  | unaligned => rfl
  | access | mapped => exact Bool.noConfusion h
  | ready v => cases store <;> exact Bool.noConfusion h

/-- A half-word access that answers a terminal status is at an odd address and records it (43_load_store.md R190). -/
theorem exec_access_of_terminal {store : Bool} {i : Instr} {s u : State} {rD : RegIdx} {ea : Word} (haccess : AccessOf store i s rD ea)
    (h : exec i s = .next u) (hterminal : u.status.terminal = true) : ea.toNat % 2 = 1 ∧ u = s.raiseUnaligned ea rD store := by
  have hodd : ea.toNat % 2 = 1 := by
    rw [exec_access haccess] at h
    obtain ⟨⟨r, w⟩, hbus, hwait⟩ := andThen_next.mp h
    cases hwait
    cases afterWait_terminal hterminal
    have hmisaligned : ea.toNat % 2 ≠ 0 := (busRefusesMisaligned ..).2 w hbus
    omega
  rw [exec_access_of_odd haccess hodd] at h
  cases h
  exact ⟨hodd, rfl⟩

/-- A conditional branch answers a soft status, taken or not (42_branch.md R183). -/
theorem branchIf_soft (s : State) (taken : Bool) (offset : Word) : (s.branchIf taken offset).status.terminal = false := by
  cases taken <;> rfl

/-- MFS of a selector that names no register (44_special.md R200). -/
theorem exec_mfs_of_unknown {s : State} {sel : BitVec 14} (h : s.special sel = none) (rD : RegIdx) :
    exec (.mfs rD sel) s = .next (s.withStatus .illegal) := by
  simp only [exec, execMfs, h]

/-- The two effects that answer a terminal status: an unaligned access and an unknown special register (60_exceptions.md R223,
R224). -/
theorem exec_of_terminal {i : Instr} {s u : State} (h : exec i s = .next u) (hterminal : u.status.terminal = true) :
    (∃ store rD ea, AccessOf store i s rD ea ∧ ea.toNat % 2 = 1 ∧ u = s.raiseUnaligned ea rD store) ∨
    (∃ rD sel, i = .mfs rD sel ∧ s.special sel = none ∧ u = s.withStatus .illegal) := by
  have unaligned {store : Bool} {rD : RegIdx} {ea : Word} (haccess : AccessOf store i s rD ea) :
      ∃ store rD ea, AccessOf store i s rD ea ∧ ea.toNat % 2 = 1 ∧ u = s.raiseUnaligned ea rD store :=
    ⟨store, rD, ea, haccess, exec_access_of_terminal haccess h hterminal⟩
  cases i with
  | lhu rD rA rB => exact .inl (unaligned (store := false) (.inl ⟨rA, rB, rfl, rfl⟩))
  | lhui rD rA imm16 => exact .inl (unaligned (store := false) (.inr ⟨rA, imm16, rfl, rfl⟩))
  | sh rD rA rB => exact .inl (unaligned (store := true) (.inl ⟨rA, rB, rfl, rfl⟩))
  | shi rD rA imm16 => exact .inl (unaligned (store := true) (.inr ⟨rA, imm16, rfl, rfl⟩))
  | mfs rD sel =>
    cases hspecial : s.special sel with
    | none =>
      rw [exec_mfs_of_unknown hspecial] at h
      cases h
      exact .inr ⟨rD, sel, rfl, hspecial, rfl⟩
    | some v =>
      simp only [exec, execMfs, hspecial] at h
      cases h
      exact Bool.noConfusion hterminal
  | beqi _ _ | blt _ _ => cases h; simp [branchIf_soft] at hterminal
  | addik _ _ _ | imm _ | bralid _ _ | msrclr _ _ | pcmpbf _ _ _ | pcmpeq _ _ _ | sext8 _ _ =>
    cases h
    exact Bool.noConfusion hterminal

/-! ### The fixed point -/

/-- An effect that answered a terminal status writes the same again, whatever the devices did meanwhile (70_reset_and_hazards.md
R325). -/
theorem exec_repeats {i : Instr} {s u : State} (h : exec i s = .next u) (hterminal : u.status.terminal = true) :
    exec i u.endCycle = .next u.endCycle := by
  rcases exec_of_terminal h hterminal with ⟨store, rD, ea, haccess, hodd, rfl⟩ | ⟨rD, sel, rfl, hspecial, rfl⟩
  · have hagain : AccessOf store i (s.raiseUnaligned ea rD store).endCycle rD ea := haccess
    exact exec_access_of_odd hagain hodd
  · have hagain : (s.withStatus .illegal).endCycle.special sel = none := hspecial
    exact exec_mfs_of_unknown hagain rD

/-- An instruction that has begun and whose counter rests at 1 performs its effect in the state as it is (40_engine.md R131). -/
theorem stepEx_of_last_tick {s : State} {inst : Inst} {i : Instr} (hex : s.ex = some inst) (hexit : s.cfg.exitAddr ≠ some inst.ipc)
    (hkind : inst.kind = .instr i) (hstarted : inst.started = true) (hcnt : inst.cnt = 1) : s.stepEx = exec i s := by
  have hbegun : s.begun inst = inst := if_pos hstarted
  have hresolved : s.resolved inst = s := by
    rw [State.resolved, hbegun, ← hcnt, ← hex]
  rw [stepEx_of_resolved hex hexit hkind (by rw [hbegun, hcnt]), hresolved]

/-- The step of the execute slot that answered a terminal status changes nothing when it is taken again (40_engine.md R141). -/
theorem stepEx_repeats {s u : State} (h : s.stepEx = .next u) (hterminal : u.status.terminal = true) :
    u.endCycle.stepEx = .next u.endCycle := by
  rcases stepEx_next h with ⟨-, rfl⟩ | ⟨inst, hex, hexit, rfl⟩ | ⟨inst, w, hex, hexit, hkind, rfl⟩ | ⟨_, _, -, -, -, -, rfl⟩ |
    ⟨inst, i, -, hexit, hkind, -, hexec⟩
  · exact Bool.noConfusion hterminal
  · exact stepEx_of_exit (s := (s.withStatus .stop).endCycle) hex hexit
  · exact stepEx_of_illegal (s := (s.withStatus .illegal).endCycle) hex hexit hkind
  · exact Bool.noConfusion hterminal
  · have hagain := exec_repeats hexec hterminal
    obtain ⟨hkind', hipc', -, -, hstarted'⟩ := begun_spec s inst
    obtain ⟨_, _, _, _, _, _, _, _, _, _, _, _, _, rfl⟩ := exec_keeps hexec
    rw [stepEx_of_last_tick (inst := { s.begun inst with cnt := 1 }) rfl (hipc'.symm ▸ hexit) (hkind'.trans hkind) hstarted' rfl]
    exact hagain

/-- Settles O45: the step of the execute slot leaves what the first one left, the controller holds, and the devices tick. -/
theorem terminalStatusRepeats : Obligations.TerminalStatusRepeats := by
  intro s t hrst haccept hstep hterminal hrst' haccept'
  obtain ⟨hwf, -⟩ := step_next hstep
  rcases cycle_next hrst hstep with ⟨-, rfl⟩ | ⟨-, u, v, hslot, hsettle, rfl⟩
  · exact Bool.noConfusion hterminal
  · have huterminal : u.status.terminal = true := settle_status hsettle ▸ hterminal
    rw [settle_of_terminal huterminal] at hsettle
    cases hsettle
    obtain ⟨-, -, -, -, hcfg⟩ := stepEx_pipeline hslot
    have hsteps : u.endCycle.steps := ⟨hcfg ▸ hwf, hrst', haccept'⟩
    have hnext : step u.endCycle = .next u.endCycle.endCycle := by
      rw [step_of_steps hsteps, stepEx_repeats hslot huterminal, andThen_of_next, State.finish,
        settle_of_terminal hterminal, andThen_of_next]
    exact ⟨u.endCycle.endCycle, hnext, rfl, sameCpu_endCycle _, rfl, rfl⟩

end Sys2Proof.Machine
end

section
/-! SUPPORT. The reset operation (10_state.md R43; 70_reset_and_hazards.md R300 to R303): what every register reads behind it, of the CPU
and of each device: O54. -/

namespace Sys2Proof.Machine

/-- Every general register reads 0 behind a reset (10_state.md R43). -/
theorem resetOp_reg (s : State) (r : RegIdx) : s.resetOp.reg r = 0 := by
  have hstored : s.resetOp.stored r = 0 := Vector.getElem_replicate r.isLt
  rw [State.reg, hstored, ite_self]

/-- A device behind its reset neither asks for an interrupt nor emits a byte (60_exceptions.md R260, R271). -/
theorem DeviceState.zero_silent (c : Config) (v : Variant) :
    (DeviceState.zero c v).irq = false ∧ (DeviceState.zero c v).emitted = none := by
  cases v <;> exact ⟨rfl, rfl⟩

/-- Every register of a device behind its reset is 0 and clean, but that STATUS shows its constant (60_exceptions.md R260, R267,
R271). -/
theorem DeviceState.reg?_zero {c : Config} {v : Variant} {n : RegName} {reg : DevReg} (h : (DeviceState.zero c v).reg? n = some reg) :
    reg = ⟨if n = .status then c.bsStatus else 0, 0, false⟩ := by
  cases v with
  | timer =>
    cases n with
    | tcsr0 | tlr0 | tcr0 | tcsr1 | tlr1 | tcr1 => cases h; rfl
    | ctrl | status | rx | tx => cases h
  | byteStream =>
    cases n with
    | ctrl | status | rx | tx => cases h; rfl
    | tcsr0 | tlr0 | tcr0 | tcsr1 | tlr1 | tcr1 => cases h

/-- A timer behind its reset has every flag 0 (60_exceptions.md R260). -/
theorem DeviceState.flags_zero {c : Config} {v : Variant} {t : Timer} (h : DeviceState.zero c v = .timer t) :
    t.ch0.tcsr.flags = TcsrFlags.zero ∧ t.ch1.tcsr.flags = TcsrFlags.zero := by
  cases v <;> cases h
  exact ⟨rfl, rfl⟩

/-- Settles O54: the power-on state of the same configuration and image, device by device, with the bytes already emitted. -/
theorem resetOperation : Obligations.ResetOperation := by
  intro s hwf hrst
  refine ⟨s.resetOp, step_of_reset hwf hrst, resetOp_reg s, rfl, rfl, rfl, rfl, rfl, rfl, rfl, rfl, rfl, rfl, rfl, rfl, rfl, rfl, rfl,
    rfl, rfl, rfl, rfl, powerOn_devicesMatch s.cfg s.mem, fun d hd => ?_⟩
  obtain ⟨e, -, rfl⟩ := List.mem_map.mp hd
  obtain ⟨hirq, hemitted⟩ := DeviceState.zero_silent s.cfg e.variant
  exact ⟨hirq, hemitted, fun _ _ => DeviceState.reg?_zero, fun _ => DeviceState.flags_zero⟩

end Sys2Proof.Machine
end

section
/-! SUPPORT. Running until N instructions have retired (70_reset_and_hazards.md R321): a cycle counts CYCLE by 1 and retires at most one
instruction, so the loop meets its count before it can pass it: O60. -/

namespace Sys2Proof.Machine

/-! ### One cycle -/

/-- A retirement counts at most one instruction (40_engine.md R143). -/
theorem retire_retired_le (s : State) : s.retire.retired ≤ s.retired + 1 := by
  cases hex : s.ex with
  | none => simp [State.retire, hex]
  | some inst => exact Nat.le_of_eq (retire_retired_of_some hex)

/-- The controller retires at most one instruction (40_engine.md R138 to R141). -/
theorem settle_retired_le {s t : State} (h : s.settle = .next t) : t.retired ≤ s.retired + 1 := by
  rcases settle_next h with ⟨-, hadvance⟩ | ⟨-, rfl⟩ | ⟨-, -, rfl⟩
  · obtain ⟨u, hfill, rfl⟩ := advance_next hadvance
    obtain ⟨_, _, rfl⟩ := fillEx_keeps hfill
    exact retire_retired_le s
  · exact retire_retired_le s
  · exact Nat.le_succ _

/-- The CPU's half of a cycle retires at most one instruction (40_engine.md R137, R143). -/
theorem cpuTick_retired_le {s t : State} (h : s.cpuTick = .next t) : t.retired ≤ s.retired + 1 := by
  rcases cpuTick_next h with ⟨-, rfl⟩ | ⟨-, u, hslot, hsettle⟩
  · exact Nat.le_succ _
  · obtain ⟨-, -, hretired, -, -⟩ := stepEx_pipeline hslot
    exact hretired ▸ settle_retired_le hsettle

/-- The CPU's half of a cycle leaves the reset input (00_scope.md R8). -/
theorem cpuTick_rst {s t : State} (h : s.cpuTick = .next t) : t.rst = s.rst := by
  rcases cpuTick_next h with ⟨-, rfl⟩ | ⟨-, u, hslot, hsettle⟩
  · rfl
  · obtain ⟨_, _, _, _, _, _, _, _, rfl⟩ := settle_keeps hsettle
    obtain ⟨_, _, _, _, _, _, _, _, _, _, _, _, _, _, rfl⟩ := stepEx_keeps hslot
    rfl

/-- A cycle without reset leaves the reset input low, counts CYCLE by 1 and retires at most one instruction (40_engine.md R143,
R146). -/
theorem step_counts {s t : State} (hrst : s.rst = false) (h : step s = .next t) :
    t.rst = false ∧ t.cycle = s.cycle + 1 ∧ t.retired ≤ s.retired + 1 := by
  obtain ⟨-, ⟨hreset, -⟩ | ⟨-, u, htick, rfl⟩⟩ := step_next h
  · simp [hrst] at hreset
  · obtain ⟨-, hcycle, -⟩ := cpuTick_system htick
    have hretired : u.retired ≤ s.retired + 1 := cpuTick_retired_le htick
    exact ⟨(cpuTick_rst htick).trans hrst, congrArg (· + 1) hcycle, hretired⟩

/-! ### The loop -/

/-- One round of a run loop: it ends behind a terminal status or when it is done, else it goes on (70_reset_and_hazards.md R321). -/
theorem runUntil_succ_next {done : State → Bool} {bound : Nat} {s t : State} (h : runUntil done (bound + 1) s = .next t) :
    ∃ u, step s = .next u ∧
      (((u.status.terminal = true ∨ done u = true) ∧ t = u) ∨ (done u = false ∧ runUntil done bound u = .next t)) := by
  obtain ⟨u, hstep, hrest⟩ := andThen_next.mp h
  refine ⟨u, hstep, ?_⟩
  split at hrest
  case isTrue hends =>
    cases hrest
    exact .inl ⟨by simpa using hends, rfl⟩
  case isFalse hgoes =>
    obtain ⟨-, hdone⟩ : u.status.terminal = false ∧ done u = false := by simpa using hgoes
    exact .inr ⟨hdone, hrest⟩

/-- The loop up to a count of retired instructions that is not yet met: it does not pass the count, nor its bound, and with a soft
status before the bound it has met the count (70_reset_and_hazards.md R321). -/
theorem runUntil_retired_meets {count bound : Nat} {s t : State} (hrst : s.rst = false) (hbelow : s.retired < count)
    (h : runUntil (fun u => decide (u.retired = count)) bound s = .next t) :
    t.retired ≤ count ∧ t.cycle ≤ s.cycle + bound ∧
      (t.status.terminal = false → t.cycle < s.cycle + bound → t.retired = count) := by
  induction bound generalizing s with
  | zero =>
    cases h
    exact ⟨hbelow.le, Nat.le_refl _, fun _ hcycle => absurd hcycle (Nat.lt_irrefl _)⟩
  | succ bound ih =>
    obtain ⟨u, hstep, hround⟩ := runUntil_succ_next h
    obtain ⟨hlow, hcycle, hretired⟩ := step_counts hrst hstep
    rcases hround with ⟨hterminal | hdone, rfl⟩ | ⟨hdone, hrest⟩
    · exact ⟨by omega, by omega, fun hsoft => by simp [hterminal] at hsoft⟩
    · have hmet : t.retired = count := of_decide_eq_true hdone
      exact ⟨by omega, by omega, fun _ _ => hmet⟩
    · have hunmet : u.retired ≠ count := of_decide_eq_false hdone
      obtain ⟨hcount, hbound, hmeets⟩ := ih hlow (by omega) hrest
      exact ⟨hcount, by omega, fun hsoft hbefore => hmeets hsoft (by omega)⟩

/-- Settles O60: for N = 0 no cycle runs, else the count of the loop is not yet met when it starts. -/
theorem runRetiredMeetsCount : Obligations.RunRetiredMeetsCount := by
  intro n bound s t hrst hrun
  rw [runRetired] at hrun
  split at hrun
  case isTrue hzero =>
    cases hrun
    exact ⟨Nat.le_add_right .., Nat.le_add_right .., fun _ _ => by omega⟩
  case isFalse hpos => exact runUntil_retired_meets hrst (by omega) hrun

end Sys2Proof.Machine
end

section
/-! SUPPORT. A word that decodes and its encoding (30_encoding.md R101, R104, R106): O2, O3 and O4. -/

namespace Sys2Proof.Laws

/-- The instruction read from the fields fixed for a name has that name. -/
@[simp] theorem instrOfFields_mnemonic (w : Word) (m : Mnemonic) : (instrOfFields w m).mnemonic = m := by
  cases m <;> rfl

/-- A word with the fields fixed for a name is the word of the instruction its fields make, format by format (30_encoding.md R101). -/
theorem encode_instrOfFields {w : Word} {m : Mnemonic} (h : HasFixedFields w m) : encode (instrOfFields w m) = w := by
  cases m <;> simp only [HasFixedFields] at h <;> simp only [instrOfFields, encode]
  case addik | imm | beqi | bralid | lhui | shi | sext8 => simpa only [h] using formatB_of_fields w
  case blt | lhu | sh | pcmpbf | pcmpeq => simpa only [h] using formatA_of_fields w
  case mfs => simpa only [h] using formatS_of_fields w
  case msrclr => simpa only [h] using formatM_of_fields w

/-- Settles O2: the word has the fields fixed for the name it decodes to, and every other bit of it is an operand. -/
theorem decodedWordReencodes : Obligations.DecodedWordReencodes := by
  intro w i hdecode
  obtain ⟨m, hfields, rfl⟩ := fixedFields_of_decodeWord hdecode
  exact encode_instrOfFields hfields

/-- Settles O3: to decode to a name, and to match the name's row, are both to have the fields fixed for it. -/
theorem decodeAcceptsExactlyTheMap : Obligations.DecodeAcceptsExactlyTheMap := by
  intro w m
  constructor
  · rintro ⟨i, hdecode, rfl⟩
    obtain ⟨m, hfields, rfl⟩ := fixedFields_of_decodeWord hdecode
    obtain ⟨r, hr, rfl⟩ := exists_row m
    exact ⟨r, hr, (instrOfFields_mnemonic w _).symm, (row_matches_iff hr w).mpr hfields⟩
  · rintro ⟨r, hr, rfl, hmatch⟩
    have hfields := (row_matches_iff hr w).mp hmatch
    exact ⟨_, decodeWord_of_fixedFields hfields, instrOfFields_mnemonic w _⟩

/-- Settles O4: the decoder, run on the nine words. -/
theorem specWordsDecode : Obligations.SpecWordsDecode := by
  refine ⟨?_, ?_, ?_, ?_, ?_, ?_, ?_, ?_, ?_⟩ <;> decide

end Sys2Proof.Laws
end

section
/-! SUPPORT. MFS of a selector that names no register, and MSRCLR (44_special.md R200, R201): O24 and O25. -/

namespace Sys2Proof.Machine

/-- A selector that is none of the six codes and lies below the PVRs or beyond them names no register (44_special.md R200). -/
theorem special_of_unknown {s : State} {sel : BitVec 14}
    (hnamed : sel ∉ [0x0000#14, 0x0001#14, 0x0003#14, 0x0005#14, 0x0007#14, 0x000B#14])
    (hplace : sel.toNat < 0x2000 ∨ 0x2000 + s.cfg.pvr.length ≤ sel.toNat) : s.special sel = none := by
  simp only [List.mem_cons, List.not_mem_nil, or_false, not_or] at hnamed
  obtain ⟨hpc, hmsr, hear, hesr, hfsr, hbtr⟩ := hnamed
  have hpvr : (if 0x2000 ≤ sel.toNat then s.cfg.pvr[sel.toNat - 0x2000]? else none) = none := by
    split
    · exact List.getElem?_eq_none (by omega)
    · rfl
  simpa only [State.special, hpc, hmsr, hear, hesr, hfsr, hbtr, if_false] using hpvr

/-- Settles O24: the selector names no register, and MFS of such a one writes the status alone. -/
theorem mfsUnknownSelectorIsIllegal : Obligations.MfsUnknownSelectorIsIllegal :=
  fun rD _ _ hnamed hplace => exec_mfs_of_unknown (special_of_unknown hnamed hplace) rD

/-- The effect of MSRCLR is one register write, the masked MSR and the status (44_special.md R201). -/
theorem exec_msrclr_eq (rD : RegIdx) (imm15 : BitVec 15) (s : State) :
    exec (.msrclr rD imm15) s = .next ({ s.writeReg rD s.msr with msr := s.msrCleared imm15 }.withStatus .normal) := rfl

/-- The masked MSR bit by bit: a bit goes where the mask has it and the carry does not (44_special.md R201). -/
theorem getLsbD_msrCleared (s : State) (imm15 : BitVec 15) (b : Nat) :
    (s.msrCleared imm15).getLsbD b = (s.msr.getLsbD b && !(imm15.getLsbD b && !s.cfg.msrC.getLsbD b)) := by
  rw [State.msrCleared, BitVec.getLsbD_and]
  by_cases hb : b < 32
  · simp [hb]
  · simp [BitVec.getLsbD_of_ge s.msr b (by omega)]

/-- Settles O25: the old MSR is written as every instruction with one result writes it, and the new one is masked bit by bit. -/
theorem msrclrClearsMaskedBits : Obligations.MsrclrClearsMaskedBits := by
  intro rD imm15 s
  exact ⟨_, exec_msrclr_eq rD imm15 s, writesOnly_writeReg s rD s.msr _, getLsbD_msrCleared s imm15⟩

end Sys2Proof.Machine
end

section
/-! SUPPORT. A half-word load of RX on its completing call (60_exceptions.md R268; 43_load_store.md R190): O17. -/

namespace Sys2Proof.Machine

/-- A bus read of RX pulls one byte (60_exceptions.md R268). -/
theorem readRegister_of_rx {s : State} {r : RegRef} {reg : DevReg} (hreg : s.registerOf r = some reg) (hrx : r.name = .rx) :
    s.readRegister r = .next (s.pullRx.1.setWidth 32, s.pullRx.2) := by
  rw [State.registerOf] at hreg
  rw [State.readRegister, hreg, hrx]

/-- The byte pulled is the first of the line, which is then gone from it (60_exceptions.md R268; log entry 6). -/
theorem pullRx_of_cons {s : State} {b : Byte} {rest : List Byte} (h : s.rxBytes = b :: rest) :
    s.pullRx = (b, { s with rxBytes := rest }) := by
  simp only [State.pullRx, h]

/-- With no byte lined up some byte is pulled, and counted (60_exceptions.md R268; log entry 6). -/
theorem pullRx_of_nil {s : State} (h : s.rxBytes = []) :
    s.pullRx = (Config.rxByte s.rxPulled, { s with rxPulled := s.rxPulled + 1 }) := by
  simp only [State.pullRx, h]

/-- A completing load of RX writes the addressed half of the byte pulled to rD (43_load_store.md R190). -/
theorem exec_load_of_rx {i : Instr} {s u : State} {rD : RegIdx} {ea : Word} {r : RegRef} {reg : DevReg} {b : Byte}
    (haccess : AccessOf false i s rD ea) (hcount : AccessCount false s rD ea 0) (heven : ea.toNat % 2 = 0)
    (htarget : targetOf s.cfg ea = .register r) (hreg : s.registerOf r = some reg) (hrx : r.name = .rx)
    (hpull : ({ s with pend := none } : State).pullRx = (b, u)) :
    exec i s = .next ((u.writeReg rD ((halfAt s.cfg.bigEndian ea (b.setWidth 32)).setWidth 32)).withStatus .normal) := by
  have hread := readRegister_of_rx (s := { s with pend := none }) hreg hrx
  rw [hpull] at hread
  exact exec_load_of_read haccess hcount heven (memRead_half_of_register (s := { s with pend := none }) htarget heven hread)

/-- Settles O17: the completing read pulls the byte, off the line or, when that is empty, beyond it, and the load writes it to rD. -/
theorem loadOfRxConsumesOneByte : Obligations.LoadOfRxConsumesOneByte := by
  intro i s rD ea r reg haccess hcount heven htarget hreg hrx
  constructor
  · intro b rest hline
    have hpull := pullRx_of_cons (s := { s with pend := none }) hline
    exact ⟨_, exec_load_of_rx haccess hcount heven htarget hreg hrx hpull, loadDone_writeReg s rD _ rest s.rxPulled, rfl, rfl⟩
  · intro hline
    have hpull := pullRx_of_nil (s := { s with pend := none }) hline
    exact ⟨_, _, exec_load_of_rx haccess hcount heven htarget hreg hrx hpull,
      loadDone_writeReg s rD _ s.rxBytes (s.rxPulled + 1), hline, rfl⟩

end Sys2Proof.Machine
end

section
/-! SUPPORT. What a control register's ENALL makes of the other one, and the counter of a channel after a tick (60_exceptions.md R246,
R256, R257, R261): O36 and O37. -/

namespace Sys2Proof.Machine

/-- Settles O36: the commit reaches the sibling exactly when the staged value has ENALL. -/
theorem globalEnableReachesSibling : Obligations.GlobalEnableReachesSibling := by
  intro r q v p
  have hreached : p = q.reachedBy (v.getLsbD 10) := congrArg Prod.snd (Tcsr.update_eq ⟨r.reg.put v, r.flags⟩ q)
  rw [hreached]
  constructor
  · intro henall
    obtain ⟨hpending, hdirty, -⟩ := q.reachedBy_staged true
    rw [henall]
    refine ⟨q.reachedBy_flags true, hpending, hdirty, ?_, ?_, fun b h7 h10 => ?_⟩
    · simp [Tcsr.getLsbD_reachedBy]
    · simp [Tcsr.getLsbD_reachedBy]
    · simp [Tcsr.getLsbD_reachedBy, h7, h10]
  · intro hnone
    rw [hnone]
    rfl

/-- A channel that counts goes on from its start where it is enabled, takes its load register where only LOAD is set, and is left
alone otherwise (60_exceptions.md R256). -/
theorem TimerChannel.counted_tcr_of_counting {c : Config} {ch : TimerChannel} (h : ch.counting c = true) :
    (ch.counted c false).tcr =
      if ch.tcsr.flags.ent then ch.tcr.put (ch.advance ch.start).1
      else if ch.tcsr.flags.load then ch.tcr.put ch.tlr.get else ch.tcr := by
  simp only [TimerChannel.counted, TimerChannel.count, h, if_true, Bool.false_eq_true, if_false]
  cases ch.tcsr.flags.ent with
  | true => rfl
  | false => cases ch.tcsr.flags.load <;> rfl

/-- A channel that does not count is left alone (60_exceptions.md R256). -/
theorem TimerChannel.counted_of_not_counting {c : Config} {pwm : Bool} {ch : TimerChannel} (h : pwm = true ∨ ch.counting c = false) :
    ch.counted c pwm = ch := by
  rcases h with rfl | hstopped
  · rfl
  · simp [TimerChannel.counted, TimerChannel.count, hstopped]

/-- Settles O37: the commit shows what the counting half put into the counter, or what was staged there where it put nothing. -/
theorem timerTickMovesCounter : Obligations.TimerTickMovesCounter := by
  intro c t ch ch' hmem start delta counts
  have hcounter : ch'.tcr = (ch.counted c t.pwm).tcr.update := by
    rw [Timer.tick_eq] at hmem
    simp only [List.mem_cons, Prod.mk.injEq, List.not_mem_nil, or_false] at hmem
    obtain ⟨rfl, rfl⟩ | ⟨rfl, rfl⟩ := hmem <;> rfl
  have hcounts : counts ↔ t.pwm = false ∧ ch.counting c = true := by
    simp only [counts, Timer.pwm, TimerChannel.counting, bne_iff_ne, Bool.and_eq_false_iff, not_and_or, Bool.not_eq_true]
  have hmoves (h : counts) :
      ch'.tcr = (if ch.tcsr.flags.ent then ch.tcr.put (ch.advance start).1
        else if ch.tcsr.flags.load then ch.tcr.put ch.tlr.get else ch.tcr).update := by
    obtain ⟨hpwm, hcounting⟩ := hcounts.mp h
    rw [hcounter, hpwm, TimerChannel.counted_tcr_of_counting hcounting]
    rfl
  have hdelta : ch.tcsr.flags.countBy = delta := rfl
  refine ⟨fun h hent hzero => ?boundary, fun h hent hpos => ?counting, fun h hent hload => ?loading, fun h => ?idle⟩
  case boundary =>
    rw [hmoves h, hent, TimerChannel.advance, if_pos hzero, hdelta]
    rfl
  case counting =>
    rw [hmoves h, hent, TimerChannel.advance, if_neg hpos, hdelta]
    rfl
  case loading =>
    rw [hmoves h, hent, hload]
    rfl
  case idle =>
    have hidle : ch'.tcr = ch.tcr.update := by
      by_cases hc : counts
      · obtain ⟨hent, hload⟩ := h.resolve_left (not_not_intro hc)
        simp [hmoves hc, hent, hload]
      · have hstopped : t.pwm = true ∨ ch.counting c = false := by
          simpa [hcounts, imp_iff_not_or] using hc
        rw [hcounter, TimerChannel.counted_of_not_counting hstopped]
    rw [hidle, DevReg.update_committed]

end Sys2Proof.Machine
end

section
/-! SUPPORT. What every cycle does to RETIRED, to the filling of the slots and to the pending prefix (40_engine.md R143, R149): O41 and
O58. -/

namespace Sys2Proof.Machine

/-! ### RETIRED -/

/-- A retirement counts the instruction in EX, if there is one (40_engine.md R143). -/
theorem retire_retired (s : State) : s.retire.retired = s.retired + if s.ex.isSome then 1 else 0 := by
  cases hex : s.ex with
  | none => simp [State.retire, hex]
  | some inst => exact retire_retired_of_some hex

/-- The controller retires the instruction in EX on NORMAL and JUMP (40_engine.md R138, R139, R143). -/
theorem settle_retired {u v : State} (h : u.settle = .next v) :
    v.retired = u.retired + if u.ex.isSome = true ∧ (u.status = .normal ∨ u.status = .jump) then 1 else 0 := by
  rcases settle_next h with ⟨hnormal, hadvance⟩ | ⟨hjump, rfl⟩ | ⟨hnormal, hjump, rfl⟩
  · obtain ⟨w, hfill, rfl⟩ := advance_next hadvance
    obtain ⟨_, _, rfl⟩ := fillEx_keeps hfill
    simpa [hnormal] using retire_retired u
  · simpa [State.flush, hjump] using retire_retired u
  · simp [hnormal, hjump]

/-- The step of the execute slot neither fills nor empties it (40_engine.md R131). -/
theorem stepEx_isSome {s u : State} (h : s.stepEx = .next u) : u.ex.isSome = s.ex.isSome := by
  simpa using congrArg Option.isSome (stepEx_exKind h)

/-- Settles O41: an interrupt entry retires nothing, and the controller retires by the status the cycle answers. -/
theorem retiredCountsCompletions : Obligations.RetiredCountsCompletions := by
  intro s t hrst hstep
  rcases cycle_next hrst hstep with ⟨haccept, rfl⟩ | ⟨haccept, u, v, hslot, hsettle, rfl⟩
  · simp [haccept]
  · obtain ⟨-, -, hretired, -, -⟩ := stepEx_pipeline hslot
    have hcount := settle_retired hsettle
    rw [hretired, stepEx_isSome hslot, ← settle_status hsettle] at hcount
    simpa [haccept] using hcount

/-! ### The slots -/

/-- The step of the execute slot leaves the filling of the slots (40_engine.md R131). -/
theorem stepEx_noBubbles {s u : State} (h : s.stepEx = .next u) (hslots : s.noBubbles) : u.noBubbles := by
  obtain ⟨hde, hfe, -, -, -⟩ := stepEx_pipeline h
  rwa [State.noBubbles, stepEx_isSome h, hde, hfe]

/-- Empty slots have no bubble (40_engine.md R149). -/
theorem noBubbles_of_empty {s : State} (hex : s.ex = none) (hde : s.de = none) : s.noBubbles := by
  simp [State.noBubbles, hex, hde]

/-- The controller moves every slot on, empties all or holds all, so no bubble arises (40_engine.md R138 to R141, R149). -/
theorem settle_noBubbles {u v : State} (h : u.settle = .next v) (hslots : u.noBubbles) : v.noBubbles := by
  rcases settle_next h with ⟨hnormal, -⟩ | ⟨-, rfl⟩ | ⟨-, -, rfl⟩
  · obtain ⟨-, hfetched⟩ := hslots
    obtain ⟨-, hex, hde, hfe, -⟩ := settle_of_normal h hnormal
    simpa [State.noBubbles, hex, hde, hfe] using hfetched
  · exact noBubbles_of_empty rfl rfl
  · exact hslots

/-! ### The pending prefix -/

/-- An effect that sets IMMPEND is that of IMM, which answers NORMAL (41_arith_imm.md R171). -/
theorem ExecLeaves.normal_of_prefix {i : Instr} {s t : State} (h : ExecLeaves i s t) (hclear : s.immPend = false)
    (hset : t.immPend = true) : t.status = .normal := by
  have hkept (hsame : t.immPend = s.immPend) : False := by simp [hset, hclear] at hsame
  cases h with
  | prefixes => rfl
  | access store rD ea t accesses leaves => cases leaves <;> exact (hkept rfl).elim
  | writes | unknownSelector | notTaken | taken | links | clears => exact (hkept rfl).elim

/-- A prefix set by the step of the execute slot comes with NORMAL, from an instruction there (41_arith_imm.md R171). -/
theorem stepEx_normal_of_prefix {s u : State} (h : s.stepEx = .next u) (hclear : s.immPend = false) (hset : u.immPend = true) :
    s.ex.isSome = true ∧ u.status = .normal := by
  have hkept (hsame : u.immPend = s.immPend) : False := by simp [hset, hclear] at hsame
  rcases stepEx_leaves h with ⟨inst, i, hex, -, hleaves⟩ | ⟨st, rfl⟩ | ⟨inst, -, -, rfl⟩
  · exact ⟨by simp [hex], hleaves.normal_of_prefix hclear hset⟩
  · exact (hkept rfl).elim
  · exact (hkept rfl).elim

/-- The controller sets no prefix (40_engine.md R138 to R142). -/
theorem settle_immPend_of_clear {u v : State} (h : u.settle = .next v) (hclear : u.immPend = false) : v.immPend = false := by
  rcases settle_next h with ⟨hnormal, -⟩ | ⟨-, rfl⟩ | ⟨-, -, rfl⟩
  · obtain ⟨himm, -⟩ := settle_of_normal h hnormal
    simp [himm, hclear]
  · obtain ⟨-, himm⟩ := flush_keeps u
    exact himm.trans hclear
  · exact hclear

/-- Behind a filled execute slot without bubbles the prefix an IMM sets is taken in the same cycle (40_engine.md R142, R149). -/
theorem cycle_takes_prefix {s u v : State} (hslots : s.noBubbles) (hclear : s.immPend = false) (hslot : s.stepEx = .next u)
    (hsettle : u.settle = .next v) : v.immPend = false := by
  cases hset : u.immPend with
  | false => exact settle_immPend_of_clear hsettle hset
  | true =>
    obtain ⟨hfilled, hnormal⟩ := stepEx_normal_of_prefix hslot hclear hset
    obtain ⟨hdecoded, -⟩ := hslots
    obtain ⟨hde, -, -, -, -⟩ := stepEx_pipeline hslot
    obtain ⟨himm, -⟩ := settle_of_normal hsettle hnormal
    rw [himm, hde]
    simp [hdecoded hfilled]

/-- Settles O58: a reset and an interrupt entry leave empty slots and set no prefix; otherwise the controller fills the slots from one
another and takes the prefix. -/
theorem stepKeepsSlotsFilled : Obligations.StepKeepsSlotsFilled := by
  intro s t hslots hclear hstep
  cases hrst : s.rst with
  | true =>
    obtain ⟨-, ⟨-, rfl⟩ | ⟨hlow, -⟩⟩ := step_next hstep
    · exact ⟨noBubbles_of_empty rfl rfl, rfl⟩
    · simp [hrst] at hlow
  | false =>
    rcases cycle_next hrst hstep with ⟨-, rfl⟩ | ⟨-, u, v, hslot, hsettle, rfl⟩
    · exact ⟨noBubbles_of_empty rfl rfl, hclear⟩
    · have hfilled : v.noBubbles := settle_noBubbles hsettle (stepEx_noBubbles hslot hslots)
      have htaken : v.immPend = false := cycle_takes_prefix hslots hclear hslot hsettle
      exact ⟨hfilled, htaken⟩

end Sys2Proof.Machine
end

section
/-! SUPPORT. The cycles of an instruction while its latency runs, and the cycle in which an IMM fires (40_engine.md R131, R132, R142):
O7 and O11. -/

namespace Sys2Proof.Machine

/-! ### The latency -/

/-- The instruction begun, with `left` ticks to go (40_engine.md R131). -/
def Inst.counting (inst : Inst) (left : Nat) : Inst := { inst with started := true, cnt := left }

/-- The cycle steps an instruction that begins, or goes on, with `left` ticks to go (40_engine.md R131). -/
def State.ticksLeft (s : State) (inst : Inst) (left : Nat) : Prop :=
  s.steps ∧ ∃ e, s.ex = some e ∧ s.begun e = inst.counting left

/-- The first step chooses the counter by the condition (40_engine.md R131, R132). -/
theorem begun_of_unstarted {s : State} {inst : Inst} (h : inst.started = false) :
    s.begun inst = inst.counting (if s.branchCondition inst.kind then inst.clat.getD inst.cnt else inst.cnt) := by
  simp [State.begun, Inst.counting, h]

/-- The CPU is as it is. -/
theorem SameCpu.refl (s : State) : SameCpu s s :=
  ⟨rfl, rfl, rfl, ⟨rfl, rfl, rfl, rfl⟩, ⟨rfl, rfl⟩, rfl, rfl, rfl, rfl, rfl, rfl⟩

/-- The frame of the CPU holds the configuration. -/
theorem SameCpu.cfg_eq {s t : State} (h : SameCpu s t) : t.cfg = s.cfg :=
  have ⟨_, _, _, _, _, _, _, _, _, _, hcfg⟩ := h
  hcfg

/-- Frames of the CPU compose. -/
theorem SameCpu.trans {s t u : State} (h : SameCpu s t) (h' : SameCpu t u) : SameCpu s u := by
  obtain ⟨hgpr, hpc, hmsr, ⟨hear, hesr, hfsr, hbtr⟩, ⟨huimm, himm⟩, hmem, hpend, hde, hfe, hretired, hcfg⟩ := h'
  simpa only [SameCpu, SameExceptionRegs, SamePrefixState, hgpr, hpc, hmsr, hear, hesr, hfsr, hbtr, huimm, himm, hmem, hpend, hde,
    hfe, hretired, hcfg] using h

/-- An execute slot with an instruction that has begun takes no interrupt (60_exceptions.md R230). -/
theorem acceptsInterrupt_of_started {s : State} {e : Inst} (hex : s.ex = some e) (h : e.started = true) :
    s.acceptsInterrupt = false := by
  simp [State.acceptsInterrupt, State.betweenInstructions, hex, h]

/-- What a stalling cycle leaves: the counter one lower, the status, and the devices ticked (40_engine.md R131, R140). -/
def State.stalled (s : State) (inst : Inst) (left : Nat) : State :=
  ({ s with ex := some (inst.counting left), status := .stall } : State).endCycle

/-- A stalling cycle changes nothing of the CPU but the counter (40_engine.md R131, R140). -/
theorem sameCpu_stalled (s : State) (inst : Inst) (left : Nat) : SameCpu s (s.stalled inst left) :=
  ⟨rfl, rfl, rfl, ⟨rfl, rfl, rfl, rfl⟩, ⟨rfl, rfl⟩, rfl, rfl, rfl, rfl, rfl, rfl⟩

section
variable {s : State} {inst : Inst} {i : Instr} {left : Nat} (hexit : s.cfg.exitAddr ≠ some inst.ipc)
  (hkind : inst.kind = .instr i)
include hexit hkind

/-- With more than one tick to go the cycle stalls (40_engine.md R131). -/
theorem step_of_ticksLeft (h : s.ticksLeft inst (left + 1)) (hmore : 0 < left) : step s = .next (s.stalled inst left) := by
  obtain ⟨hsteps, e, hex, hbegun⟩ := h
  obtain ⟨hekind, heipc, -⟩ := begun_spec s e
  rw [hbegun] at hekind heipc
  have hslot := stepEx_of_counting hex (heipc ▸ hexit) (hekind.symm.trans hkind)
    (by rw [hbegun]; exact Nat.succ_lt_succ hmore)
  rw [step_of_steps hsteps, hslot, hbegun]
  rfl

/-- On the last tick the cycle performs the effect (40_engine.md R131). -/
theorem step_of_last_tick (h : s.ticksLeft inst 1) :
    step s = andThen (exec i { s with ex := some (inst.counting 1) }) State.finish := by
  obtain ⟨hsteps, e, hex, hbegun⟩ := h
  obtain ⟨hekind, heipc, -⟩ := begun_spec s e
  rw [hbegun] at hekind heipc
  have hslot := stepEx_of_resolved hex (heipc ▸ hexit) (hekind.symm.trans hkind) (by rw [hbegun]; rfl)
  rw [step_of_steps hsteps, hslot, State.resolved, hbegun]
  rfl

end

/-- Behind a stall the instruction goes on with one tick less (40_engine.md R131). -/
theorem ticksLeft_stalled {s : State} {inst : Inst} (h : s.steps) (left : Nat) : (s.stalled inst left).ticksLeft inst left := by
  obtain ⟨hwf, hrst, -⟩ := h
  exact ⟨⟨hwf, hrst, acceptsInterrupt_of_started rfl rfl⟩, inst.counting left, rfl, rfl⟩

/-- A run of as many cycles as there are ticks to go above `left` stalls in each of them (40_engine.md R131). -/
theorem runCycles_of_ticksLeft {s : State} {inst : Inst} {i : Instr} {left : Nat} (hexit : s.cfg.exitAddr ≠ some inst.ipc)
    (hkind : inst.kind = .instr i) (hpos : 1 ≤ left) (k : Nat) (h : s.ticksLeft inst (left + k)) :
    ∃ t, runCycles k s = .next t ∧ SameCpu s t ∧ t.ticksLeft inst left ∧
      (k ≠ 0 → t.status = .stall ∧ t.ex = some (inst.counting left)) := by
  induction k generalizing s with
  | zero => exact ⟨s, rfl, SameCpu.refl s, h, fun hne => absurd rfl hne⟩
  | succ k ih =>
    have hstep := step_of_ticksLeft (left := left + k) hexit hkind h (by omega)
    obtain ⟨hsteps, -⟩ := h
    obtain ⟨t, hrun, hsame, hleft, hlast⟩ := ih (s := s.stalled inst (left + k)) hexit (ticksLeft_stalled hsteps _)
    refine ⟨t, (runCycles_succ hstep rfl).trans hrun, (sameCpu_stalled s inst _).trans hsame, hleft, fun _ => ?_⟩
    cases k with
    | zero =>
      cases hrun
      exact ⟨rfl, rfl⟩
    | succ k => exact hlast (Nat.succ_ne_zero k)

/-- Settles O7: the instruction begins with its latency to go, each stall takes one tick of it, and the last tick fires. -/
theorem latencyStallsThenFires : Obligations.LatencyStallsThenFires := by
  intro s inst i n hsteps hex hexit hkind hstarted hlatency hpos
  have hbegins : s.ticksLeft inst n := ⟨hsteps, inst, hex, hlatency ▸ begun_of_unstarted hstarted⟩
  constructor
  · intro k hk
    have hsplit : n = n - 1 - k + (k + 1) := by omega
    obtain ⟨t, hrun, hsame, -, hlast⟩ := runCycles_of_ticksLeft hexit hkind (by omega) (k + 1) (hsplit ▸ hbegins)
    obtain ⟨hstall, hcounter⟩ := hlast (Nat.succ_ne_zero k)
    exact ⟨t, hrun, hstall, hsame, hcounter⟩
  · have hsplit : n = 1 + (n - 1) := by omega
    obtain ⟨t, hrun, hsame, hleft, -⟩ := runCycles_of_ticksLeft hexit hkind (Nat.le_refl 1) (n - 1) (hsplit ▸ hbegins)
    exact ⟨t, hrun, hsame, step_of_last_tick (hsame.cfg_eq ▸ hexit) hkind hleft⟩

/-! ### The prefix -/

/-- Where an IMM pends, the instruction of DE is filled in with its half-word, or is refused if it takes no immediate (40_engine.md
R142; 93_implementation_defined.md U1). -/
theorem fillEx_of_prefixed {s : State} {d : Inst} (hde : s.de = some d) (hpend : s.immPend = true) :
    s.fillEx =
      if d.kind.consumesImmediate then
        .next { s with ex := some { d with upper := some (s.uimm.extractLsb' 16 16) }, immPend := false }
      else .refused (.prefixWithoutConsumer d.ipc) := by
  simp only [State.fillEx, hde, State.finalise, hpend, if_true]
  split <;> rfl

/-- On NORMAL the rest of the cycle retires, fills EX, moves the other slots on and ticks the devices (40_engine.md R138, R146). -/
theorem finish_of_normal {s : State} (h : s.status = .normal) :
    s.finish = andThen s.retire.fillEx (fun t => .next t.shiftFetch.endCycle) := by
  rw [State.finish, State.settle, h]
  exact andThen_assoc ..

/-- The state an IMM that fires hands to the controller (41_arith_imm.md R171). -/
def State.prefixed (s : State) (inst : Inst) (imm16 : BitVec 16) : State :=
  { s.resolved inst with uimm := imm16 ++ 0#16, immPend := true, status := .normal }

/-- The effect of IMM, on its last tick (41_arith_imm.md R171). -/
theorem exec_imm_resolved (s : State) (inst : Inst) (imm16 : BitVec 16) :
    exec (.imm imm16) (s.resolved inst) = .next (s.prefixed inst imm16) := rfl

/-- The half-word the instruction behind it takes is that of the IMM (41_arith_imm.md R171, 40_engine.md R142). -/
theorem upper_of_prefixed (s : State) (inst : Inst) (imm16 : BitVec 16) :
    (s.prefixed inst imm16).uimm.extractLsb' 16 16 = imm16 := BitVec.extractLsb'_append_eq_left

/-- The cycle in which an IMM fires: the instruction behind it is filled in prefixed, or refused (40_engine.md R138, R142). -/
theorem step_of_imm {s : State} {inst next : Inst} {imm16 : BitVec 16} (h : s.fires inst (.imm imm16)) (hde : s.de = some next) :
    step s =
      if next.kind.consumesImmediate then
        .next ({ (s.prefixed inst imm16).retire with ex := some { next with upper := some imm16 }, immPend := false } :
          State).shiftFetch.endCycle
      else .refused (.prefixWithoutConsumer next.ipc) := by
  obtain ⟨hsteps, hex, hexit, hkind, hcnt⟩ := h
  have hfill := fillEx_of_prefixed (s := (s.prefixed inst imm16).retire) (d := next)
    ((State.retire_de _).trans hde) (State.retire_immPend _)
  have hhalf : (s.prefixed inst imm16).retire.uimm.extractLsb' 16 16 = imm16 := by
    rw [State.retire_uimm, upper_of_prefixed]
  rw [hhalf] at hfill
  rw [step_of_steps hsteps, stepEx_of_resolved hex hexit hkind hcnt, exec_imm_resolved, andThen_of_next, finish_of_normal rfl, hfill]
  split <;> rfl

/-- Settles O11: the cycle of the IMM, by whether the instruction behind it takes an immediate. -/
theorem immPrefixJoinsNextInstruction : Obligations.ImmPrefixJoinsNextInstruction := by
  intro s inst next imm16 hfires hde
  have hstep := step_of_imm hfires hde
  constructor
  · intro htakes
    rw [htakes, if_pos rfl] at hstep
    have huimm : (s.prefixed inst imm16).retire.uimm = imm16 ++ 0#16 := State.retire_uimm _
    have hretired : (s.prefixed inst imm16).retire.retired = s.retired + 1 := retire_retired_of_some rfl
    have hstatus : (s.prefixed inst imm16).retire.status = .normal := State.retire_status _
    exact ⟨_, hstep, rfl, rfl, huimm, hretired, hstatus⟩
  · intro htakesNot
    simpa [htakesNot] using hstep

end Sys2Proof.Machine
end
